-- ==== Sys2Proof/Word.lean ====
section
/-!
DEFINITION. The three unsigned types of rule R8 (00_scope.md): `u8`, `u32`, `u64`. Their `+`, `-`, `&&&`, `^^^`, `<<<`
and `>>>` are the `add32`, `sub32`, `and`, `xor`, `shl32`, `shr32` (and `add8`) of rule R9: they wrap, shift zeros in,
and set no flag.
-/

namespace Sys2Proof

/-- `u8` of rule R8. -/
abbrev Byte := BitVec 8

/-- `u32` of rule R8. -/
abbrev Word := BitVec 32

/-- `u64` of rule R8. -/
abbrev DWord := BitVec 64

end Sys2Proof
end

