-- ==== Sys2Proof/Config.lean ====
section
/-!
DEFINITION. The constants of rule R5, the identity constant of rule R23, and the two things the spec leaves open:
the marker MAGIC (rule R6, log 4) and the bytes of the random source RND (rule R40, log 2). The open ones are constants
with no body, so that nothing can be proved of their value.
-/

namespace Sys2Proof.Config

/-- MAGIC, the four marker bytes (rule R6): a parameter, its value is in no source (log 4). -/
opaque magic : Vector Byte 4

/-- The byte that draw number `n` of RND answers (rule R40): a free value, under no law (log 2). -/
opaque rnd : Nat → Byte

/-- The ID register's constant (rule R23). -/
def idValue : Word := 0x4A430001

/-- `DIGEST_BYTES` of rule R5, the value put in `S[0]`. -/
def digestBytes : Nat := 64

/-- `BLOCK_BYTES` of rule R5, the value put in `S[1]`. -/
def blockBytes : Nat := 32

/-- `ROUND_PARAM` of rule R5, the value put in `S[2]`. -/
def roundParam : Nat := 16

/-- `INIT_ROUNDS` of rule R5. -/
def initRounds : Nat := 16

/-- `BLOCK_ROUNDS` of rule R5. -/
def blockRounds : Nat := 16

/-- `FINAL_ROUNDS` of rule R5. -/
def finalRounds : Nat := 32

/-- `PAD_FIRST` of rule R5. -/
def padFirst : Byte := 0x80

/-- `BC_CYCLES` of rule R5. -/
def bcCycles : Nat := 32

/-- `BC_DELTA` of rule R5. -/
def bcDelta : Word := 0x9E3779B9

/-- `(BC_DELTA * BC_CYCLES) mod 2^32`, the starting `sum` of decryption (rule R87). -/
def bcDecSum : Word := 0xC6EF3720

/-- `CHUNK_BYTES` of rule R5. -/
def chunkBytes : Nat := 8

/-- `SALT_BYTES` of rule R5. -/
def saltBytes : Nat := 128

/-- `HEADER_BYTES` of rule R5. -/
def headerBytes : Nat := 133

end Sys2Proof.Config
end

