-- ==== Sys2Proof/Syntax.lean ====
section
/-!
DEFINITION. The sixteen commands (30_encoding.md, rule R61), the registers of the window (10_state.md, rule R17) and the
moves the world outside can make on the engine (20_memory.md, rules R44, R52; 70_reset_and_hazards.md, rule R125).
-/

namespace Sys2Proof

/-- The sixteen commands of rule R61. A command has no operand fields (rule R59): each takes its operands from named
registers and streams. -/
inductive Instr where
  | nop
  | softReset
  | hash
  | strm
  | blkEnc
  | blkDec
  | saltGen
  | kdf
  | hdrPut
  | hdrGet
  | chunkEnc
  | chunkDec
  | chunkEncLast
  | chunkDecLast
  | fileEnc
  | fileDec
deriving DecidableEq, Repr

/-- The 32-bit words of the register window (rule R17). -/
inductive Reg where
  | cmd
  | status
  | errcode
  | errinfo
  | ien
  | id
  | lenLo
  | lenHi
  | pwlen
  | klen
  | padcount
  | chunkLo
  | chunkHi
  | reserved (k : Fin 3)
  | digest (i : Fin 16)
  | salt (j : Fin 32)
  | key (j : Fin 64)
deriving DecidableEq, Repr

/-- One move of the outside world, each atomic and ordered with all others (rules R13, R51, R54). A register access
carries the byte offset and the access width in bytes as the bus presents them; only aligned words of the window are
moves the engine answers (rules R44, R45). -/
inductive HostTx where
  /-- `MemRead(off, width)`. -/
  | memRead (off width : Nat)
  /-- `MemWrite(off, width, v)`. -/
  | memWrite (off width : Nat) (v : Word)
  /-- `HostPush(a)`. -/
  | push (bytes : List Byte)
  /-- `HostPop(n)`. -/
  | pop (n : Nat)
  /-- The platform drives the engine's reset input (rule R125). -/
  | hardReset
deriving DecidableEq, Repr

end Sys2Proof
end

