-- ==== Sys2Proof/WellFormed.lean ====
section
/-!
DEFINITION. Well-formed syntax. A command word has no operand fields, so every command is well-formed (rule R59). A
register access is well-formed when it is an aligned 32-bit access inside the window (rules R44, R45); the other moves
have no form to check (a pop's count is checked against DOUT, rule R52, when it is performed).
-/

namespace Sys2Proof

/-- Every command is well-formed: it has no operand that could be out of range (rule R59). -/
def Instr.wf : Instr → Bool
  | _ => true

/-- Rule R44's access: 32 bits wide, `off mod 4 = 0`, `0 <= off <= 0x1FC`. -/
def accessWf (off width : Nat) : Bool :=
  width == 4 && off % 4 == 0 && off ≤ 0x1FC

/-- A transaction the engine has a register for (rules R44, R45). -/
def HostTx.wf : HostTx → Bool
  | .memRead off width => accessWf off width
  | .memWrite off width _ => accessWf off width
  | .push _ => true
  | .pop _ => true
  | .hardReset => true

end Sys2Proof
end

