-- ==== Sys2Proof/Decode.lean ====
section
/-!
DEFINITION. The command word's decoder and encoder (30_encoding.md, rules R59, R61, R62), and the decoding of a bus
access into the register it reaches (10_state.md, rule R17; 20_memory.md, rules R44, R45).
-/

namespace Sys2Proof

/-- Why a word is illegal (rule R62). -/
inductive DecodeError where
  /-- Bits 31:8 are not zero. -/
  | zeroFieldNonzero
  /-- Bits 31:8 are zero and bits 7:0 are no opcode. -/
  | opcodeUndefined
deriving DecidableEq, Repr

/-- The `op` field of a command word (rule R59). -/
def opField (w : Word) : Byte := w.extractLsb' 0 8

/-- The `zero` field of a command word (rule R59). -/
def zeroField (w : Word) : BitVec 24 := w.extractLsb' 8 24

/-- Columns `op` and `mnemonic` of rule R61's table. -/
def opcodeTable : List (Byte × Instr) :=
  [(0x00, .nop), (0x01, .softReset), (0x10, .hash), (0x20, .strm),
   (0x30, .blkEnc), (0x31, .blkDec), (0x40, .saltGen), (0x41, .kdf),
   (0x42, .hdrPut), (0x43, .hdrGet), (0x44, .chunkEnc), (0x45, .chunkDec),
   (0x46, .chunkEncLast), (0x47, .chunkDecLast), (0x50, .fileEnc), (0x51, .fileDec)]

/-- The command of an opcode (rule R61). -/
def decodeOp (op : Byte) : Except DecodeError Instr :=
  match opcodeTable.find? (fun row => row.1 == op) with
  | some row => .ok row.2
  | none => .error .opcodeUndefined

/-- Which command a word selects: one exactly when `zero = 0` and `op` is in the table (rule R61); every other word is
illegal (rule R62). -/
def decode (w : Word) : Except DecodeError Instr :=
  if zeroField w = 0 then decodeOp (opField w) else .error .zeroFieldNonzero

/-- Rule R62's word: no command's. -/
def illegal (w : Word) : Bool :=
  match decode w with
  | .ok _ => false
  | .error _ => true

/-- Column `word` of rule R61's table. -/
def encode : Instr → Word
  | .nop => 0x00000000
  | .softReset => 0x00000001
  | .hash => 0x00000010
  | .strm => 0x00000020
  | .blkEnc => 0x00000030
  | .blkDec => 0x00000031
  | .saltGen => 0x00000040
  | .kdf => 0x00000041
  | .hdrPut => 0x00000042
  | .hdrGet => 0x00000043
  | .chunkEnc => 0x00000044
  | .chunkDec => 0x00000045
  | .chunkEncLast => 0x00000046
  | .chunkDecLast => 0x00000047
  | .fileEnc => 0x00000050
  | .fileDec => 0x00000051

/-- The command word whose low `nbits` bits are `w`'s and whose other bits are 0. The word is the data of one 32-bit
write (rule R59), so it needs no byte order. -/
def tableWord (nbits w : Nat) : Word := BitVec.ofNat 32 (w % 2 ^ nbits)

/-- The command the decoder reads from an opcode-table word of `nbits` bits. No command is longer than 32 bits (rule
R59). -/
def decodeTableWord (nbits w : Nat) : Option Instr :=
  if nbits ≤ 32 then
    match decode (tableWord nbits w) with
    | .ok i => some i
    | .error _ => none
  else none

/-- The registers of window words 0..12, in the order of rule R17's table. -/
def singleRegs : List Reg :=
  [.cmd, .status, .errcode, .errinfo, .ien, .id, .lenLo, .lenHi, .pwlen, .klen, .padcount, .chunkLo, .chunkHi]

/-- The register whose word has index `k` in the window: column `offset` of rule R17's table, divided by 4. -/
def regOfIndex (k : Nat) : Option Reg :=
  if k < 13 then singleRegs[k]?
  else if h : k - 13 < 3 then some (.reserved ⟨k - 13, h⟩)
  else if h : k - 16 < 16 then some (.digest ⟨k - 16, h⟩)
  else if h : k - 32 < 32 then some (.salt ⟨k - 32, h⟩)
  else if h : k - 64 < 64 then some (.key ⟨k - 64, h⟩)
  else none

/-- The register a bus access reaches: none unless the access is an aligned 32-bit one inside the window (rules R44,
R45). -/
def accessReg (off width : Nat) : Option Reg :=
  if width = 4 ∧ off % 4 = 0 then regOfIndex (off / 4) else none

/-- Column `offset` of rule R17's table. -/
def Reg.offset : Reg → Nat
  | .cmd => 0x000
  | .status => 0x004
  | .errcode => 0x008
  | .errinfo => 0x00C
  | .ien => 0x010
  | .id => 0x014
  | .lenLo => 0x018
  | .lenHi => 0x01C
  | .pwlen => 0x020
  | .klen => 0x024
  | .padcount => 0x028
  | .chunkLo => 0x02C
  | .chunkHi => 0x030
  | .reserved k => 0x034 + 4 * k.val
  | .digest i => 0x040 + 4 * i.val
  | .salt j => 0x080 + 4 * j.val
  | .key j => 0x100 + 4 * j.val

end Sys2Proof
end

