-- ==== Sys2Proof/Machine/Bytes.lean ====
section
/-!
DEFINITION. Byte strings, tables and the one byte order (00_scope.md, rule R10; 20_memory.md, rules R46, R47).
-/

namespace Sys2Proof.Machine

/-- The table whose entry `i` is `f i`. -/
def tabulate {α : Type} {n : Nat} (f : Fin n → α) : Vector α n := ⟨⟨List.ofFn f⟩, by simp⟩

/-- `a[k..k+n)` of rule R10. -/
def slice (a : List Byte) (k n : Nat) : List Byte := (a.drop k).take n

/-- The word of four bytes, the first the least significant (rule R10). -/
def leWord (b0 b1 b2 b3 : Byte) : Word :=
  b0.setWidth 32 ||| b1.setWidth 32 <<< 8 ||| b2.setWidth 32 <<< 16 ||| b3.setWidth 32 <<< 24

/-- `le32(a[k..k+4))` of rule R10 (log 12 for a shorter string). -/
def le32At (a : List Byte) (k : Nat) : Word :=
  leWord (a.getD k 0) (a.getD (k + 1) 0) (a.getD (k + 2) 0) (a.getD (k + 3) 0)

/-- Byte lane `q` of a word: bits `8*q+7 : 8*q` (rules R29, R46). -/
def byteLane (w : Word) (q : Nat) : Byte := w.extractLsb' (8 * q) 8

/-- `bytes32(w)` of rule R10. -/
def bytes32 (w : Word) : List Byte := [byteLane w 0, byteLane w 1, byteLane w 2, byteLane w 3]

/-- The byte register file of `n` entries that holds the byte string `a` from its entry 0 (log 12 for a shorter
string). -/
def fileOfBytes (n : Nat) (a : List Byte) : Vector Byte n := tabulate fun k => a.getD k.val 0

/-- Word `j` of a byte register file: its bytes `4j .. 4j+3`, packed little-endian (rule R46). -/
def fileWord {n : Nat} (file : Vector Byte n) (j : Nat) : Word := le32At file.toList (4 * j)

/-- The byte register file after word `j` of it is written with `v` (rule R46). -/
def fileSetWord {n : Nat} (file : Vector Byte n) (j : Nat) (v : Word) : Vector Byte n :=
  tabulate fun k => if k.val / 4 = j then byteLane v (k.val % 4) else file[k]

end Sys2Proof.Machine
end

