-- ==== Sys2Proof/Machine/State.lean ====
section
/-!
DEFINITION. The complete state of one engine instance (10_state.md, rule R15), the reasons a step can stop, and the
state after hardware reset (70_reset_and_hazards.md, rule R125). CMD, ID and IRQ hold nothing: a write to CMD issues a
command, ID is a constant, IRQ is a function of state.
-/

namespace Sys2Proof.Machine

/-- Where the model stops although the spec goes on; no command raises one. -/
inductive Fault where
  /-- Raised by a host register access that is no aligned 32-bit access inside the window (rule R45: it is refused,
  changes no state, is reported as a bus error, and "a model gives such a transaction no step"). Safe (log 5). -/
  | busError
deriving DecidableEq, Repr

/-- Moves that have no meaning. -/
inductive Refusal where
  /-- Raised by `exec` for a command that has no meaning yet; no arm raises it now. Safe. -/
  | notModelled (mnemonic : String)
  /-- Raised by a host pop of more bytes than DOUT holds (rule R52: "the host has no such move"). Safe (log 5). -/
  | popUnavailable
deriving DecidableEq, Repr

/-- The error kinds of 60_exceptions.md, rule R112. An error is a next state, not a stop: `raise` records it. -/
inductive ErrKind where
  | headerMismatch
  | keyLengthViolation
  | ioFailure
  | truncatedInput
  | padCountRange
  | noKey
  | illegalCommand
deriving DecidableEq, Repr

/-- The four STATUS flags (rule R19); the register's other bits hold nothing and read 0 (log 7). -/
structure Status where
  /-- Bit 0. -/
  done : Bool
  /-- Bit 1. -/
  err : Bool
  /-- Bit 2. -/
  kvalid : Bool
  /-- Bit 3. -/
  busy : Bool
deriving DecidableEq, Repr

/-- `S[0..31]`, the hash state (rule R33). -/
abbrev HashState := Vector Word 32

/-- The stream-cipher state: `T[0..255]`, `si`, `sj` (rule R34). -/
structure StreamState where
  table : Vector Byte 256
  si : Byte
  sj : Byte
deriving DecidableEq, Repr

/-- The block-cipher state: `v0`, `v1`, `sum`, `sk[0..3]` (rule R35). -/
structure BlockState where
  v0 : Word
  v1 : Word
  sum : Word
  sk : Vector Word 4
deriving DecidableEq, Repr

/-- The working state (rules R33 to R36): written while a command runs, zero between commands. -/
structure Work where
  hash : HashState
  stream : StreamState
  block : BlockState
deriving DecidableEq, Repr

/-- All working state zero (rules R36, R125): the table is zero too, not the identity. -/
def Work.zero : Work where
  hash := Vector.replicate 32 0
  stream := { table := Vector.replicate 256 0, si := 0, sj := 0 }
  block := { v0 := 0, v1 := 0, sum := 0, sk := Vector.replicate 4 0 }

/-- What a host read or pop hands to the host. -/
inductive HostReply where
  /-- The word a register read returned (rule R44). -/
  | word (v : Word)
  /-- The bytes a pop removed from DOUT (rule R52). -/
  | bytes (bs : List Byte)
deriving DecidableEq, Repr

/-- The state of one engine instance (rule R15), and three fields of the model's own (rndDrawn, pending, replies). -/
structure State where
  /-- STATUS, rule R19. -/
  status : Status
  /-- ERRCODE bits 7:0, rule R20. -/
  errcode : Byte
  /-- ERRINFO, rule R21. -/
  errinfo : Word
  /-- IEN bits 1:0, rule R22. -/
  ien : BitVec 2
  /-- LEN, rule R24. -/
  len : DWord
  /-- PWLEN, rule R25. -/
  pwlen : Word
  /-- KLEN bits 8:0, rule R26. -/
  klen : BitVec 9
  /-- PADCOUNT bits 7:0, rule R27. -/
  padcount : Byte
  /-- CHUNK, rule R28. -/
  chunk : DWord
  /-- DIGEST[0..15], rule R29. -/
  digest : Vector Word 16
  /-- SALT[0..127], rule R30. -/
  salt : Vector Byte 128
  /-- KEY[0..255], rule R31. -/
  key : Vector Byte 256
  /-- KMAT[0..63], rule R32. -/
  kmat : Vector Byte 64
  /-- Working state, rules R33 to R36. -/
  work : Work
  /-- DIN, its head first, rule R38. -/
  din : List Byte
  /-- DOUT, its head first, rule R39. -/
  dout : List Byte
  /-- How many bytes RND has given: the model's own (log 2). -/
  rndDrawn : Nat
  /-- The transactions the host has still to perform, the next first: the model's own (log 1). -/
  pending : List HostTx
  /-- What the host has been handed, the first first: the model's own (log 3). -/
  replies : List HostReply
deriving DecidableEq, Repr

/-- The machine after hardware reset (rule R125): every register zero, the queues empty, nothing pending. -/
def State.reset : State where
  status := { done := false, err := false, kvalid := false, busy := false }
  errcode := 0
  errinfo := 0
  ien := 0
  len := 0
  pwlen := 0
  klen := 0
  padcount := 0
  chunk := 0
  digest := Vector.replicate 16 0
  salt := Vector.replicate 128 0
  key := Vector.replicate 256 0
  kmat := Vector.replicate 64 0
  work := Work.zero
  din := []
  dout := []
  rndDrawn := 0
  pending := []
  replies := []

end Sys2Proof.Machine
end

