-- ==== Sys2Proof/Machine/Flags.lean ====
section
/-!
DEFINITION. The STATUS flags and what sets and clears them (10_state.md, rule R19), and the interrupt line
(60_exceptions.md, rule R121). No arithmetic sets a flag (00_scope.md, rule R9).
-/

namespace Sys2Proof.Machine

/-- One flag as a bit of a register word. -/
def flagBit (b : Bool) (k : Nat) : Word := (BitVec.ofBool b).setWidth 32 <<< k

/-- STATUS as the host reads it: bit 0 DONE, bit 1 ERR, bit 2 KVALID, bit 3 BUSY, bits 31:4 zero (rule R19). -/
def statusWord (f : Status) : Word :=
  flagBit f.done 0 ||| flagBit f.err 1 ||| flagBit f.kvalid 2 ||| flagBit f.busy 3

/-- A command is accepted: DONE clears (rule R63) and BUSY rises (rule R19, log 6). -/
def flagsAccepted (f : Status) : Status := { f with done := false, busy := true }

/-- A command completes: DONE rises (rule R63) and BUSY falls (rule R19, log 6). -/
def flagsCompleted (f : Status) : Status := { f with done := true, busy := false }

/-- An error is raised: ERR rises, DONE and KVALID clear (rule R117), and BUSY falls (rule R19, log 6). -/
def flagsRaised (_f : Status) : Status := { done := false, err := true, kvalid := false, busy := false }

/-- A host write of `v` to STATUS: bit 0 equal to 1 clears DONE, everything else is ignored (rule R19). -/
def flagsWritten (v : Word) (f : Status) : Status :=
  if v.getLsbD 0 then { f with done := false } else f

/-- IEN bit 0 (rule R22). -/
def State.doneIe (s : State) : Bool := s.ien.getLsbD 0

/-- IEN bit 1 (rule R22). -/
def State.errIe (s : State) : Bool := s.ien.getLsbD 1

/-- The interrupt output (rule R121). -/
def State.irq (s : State) : Bool := (s.status.done && s.doneIe) || (s.status.err && s.errIe)

end Sys2Proof.Machine
end

