-- ==== Sys2Proof/Machine/Operands.lean ====
section
/-!
DEFINITION. Where commands find their operands (30_encoding.md, rule R60): register values as unsigned naturals, the
key, the salt, and the bytes at the head of DIN. Nothing is sign-extended, scaled or shifted, and sums of lengths are
taken in unbounded naturals.
-/

namespace Sys2Proof.Machine

/-- LEN as a length (rules R24, R60). -/
def State.lenNat (s : State) : Nat := s.len.toNat

/-- PWLEN as a length (rules R25, R60). -/
def State.pwlenNat (s : State) : Nat := s.pwlen.toNat

/-- KLEN as a length (rules R26, R60). -/
def State.klenNat (s : State) : Nat := s.klen.toNat

/-- PADCOUNT as a count (rules R27, R60). -/
def State.padNat (s : State) : Nat := s.padcount.toNat

/-- The key of STRM, `KEY[0..KLEN)` (rule R31). -/
def State.streamKey (s : State) : List Byte := s.key.toList.take s.klenNat

/-- The key of BLK_ENC and BLK_DEC, `KEY[0..16)` (rule R31). -/
def State.blockKey (s : State) : List Byte := s.key.toList.take 16

/-- `DinAvail()` (rule R12). -/
def State.dinAvail (s : State) : Nat := s.din.length

/-- The first `n` bytes of DIN: what `DinPop(n)` returns (rule R12). -/
def State.dinHead (s : State) (n : Nat) : List Byte := s.din.take n

/-- `DinPeek(k)`: byte `k` of DIN, counted from its head (rule R12). -/
def State.dinPeek (s : State) (k : Nat) : Byte := s.din.getD k 0

/-- The next `n` bytes of RND, in the order drawn: what `RndDraw(n)` returns (rules R12, R40, log 2). -/
def State.rndHead (s : State) (n : Nat) : List Byte :=
  (List.range n).map fun k => Config.rnd (s.rndDrawn + k)

end Sys2Proof.Machine
end

