-- ==== Sys2Proof/Machine/Ops.lean ====
section
/-!
DEFINITION. The operations every command is made of: the streams (00_scope.md, rule R12), acceptance and completion
(30_encoding.md, rule R63), error entry (60_exceptions.md, rule R117) and the way out of the error state
(44_system.md, rule R110).
-/

namespace Sys2Proof.Machine

/-- `DinPop(n)` removes the first `n` bytes of DIN (rule R12). -/
def State.dinPop (s : State) (n : Nat) : State := { s with din := s.din.drop n }

/-- `DoutPush(a)` appends the bytes of `a` to DOUT (rule R12); it never fails (rule R39). -/
def State.doutPush (s : State) (a : List Byte) : State := { s with dout := s.dout ++ a }

/-- `RndDraw(n)` takes `n` bytes from RND (rule R12); it never fails (rule R40). -/
def State.rndDraw (s : State) (n : Nat) : State := { s with rndDrawn := s.rndDrawn + n }

/-- ERRCODE of an error kind: rule R112's table. -/
def errCode : ErrKind → Byte
  | .headerMismatch => 0x01
  | .keyLengthViolation => 0x02
  | .ioFailure => 0x03
  | .truncatedInput => 0x04
  | .padCountRange => 0x05
  | .noKey => 0x06
  | .illegalCommand => 0x07

/-- KMAT destroyed (rules R32, R117). -/
def State.wipeKmat (s : State) : State := { s with kmat := Vector.replicate 64 0 }

/-- All working state zeroed (rule R36). -/
def State.wipeWork (s : State) : State := { s with work := Work.zero }

/-- The engine accepts a command (rule R63). -/
def accept (s : State) : State := { s with status := flagsAccepted s.status }

/-- A command completes: all working state is zeroed and DONE rises (rules R36, R63). -/
def complete (s : State) : State :=
  { s.wipeWork with status := flagsCompleted s.status }

/-- Error entry, `raise k` during the command whose word is `w` (rule R117): the error is recorded, the key material and
the working state are destroyed, and nothing else changes. -/
def raise (k : ErrKind) (w : Word) (s : State) : State :=
  { s.wipeKmat.wipeWork with
    errcode := errCode k
    errinfo := w
    status := flagsRaised s.status }

/-- The way out of the error state (rules R110, R120): every register but IEN to its reset value, KMAT and the working
state zero, both queues empty. RND has no state in the engine and the host is not the engine: their fields stay. -/
def leaveErrorState (s : State) : State :=
  { State.reset with
    ien := s.ien
    rndDrawn := s.rndDrawn
    pending := s.pending
    replies := s.replies }

/-- Hardware reset (rule R125): every piece of the engine's state to its reset value. RND has no reset (rule R40), and
the host's own fields stay. -/
def hardReset (s : State) : State :=
  { State.reset with
    rndDrawn := s.rndDrawn
    pending := s.pending
    replies := s.replies }

/-- The error a command reports: the first of its checks, in the order its rule lists them, that fails (rule R119). A
check is written as the condition under which it FAILS, with the kind it raises. -/
def firstError : List (Bool × ErrKind) → Option ErrKind
  | [] => none
  | (fails, k) :: rest => if fails then some k else firstError rest

/-- A command accepted with word `w`: its checks, then its body, which cannot fail (rules R14, R63). -/
def runAccepted (w : Word) (checks : State → List (Bool × ErrKind)) (body : State → State) (s : State) : State :=
  match firstError (checks s) with
  | some k => raise k w s
  | none => complete (body s)

/-- What a write of the command word `w` of any command but SOFT_RESET does (rule R63): nothing in the error state, else
acceptance, checks, body, completion. -/
def issue (w : Word) (checks : State → List (Bool × ErrKind)) (body : State → State) (s : State) : State :=
  if s.status.err then s else runAccepted w checks body (accept s)

/-- What a write of an illegal word `w` to CMD does (rules R63, R114). -/
def issueIllegal (w : Word) (s : State) : State :=
  if s.status.err then s else raise .illegalCommand w (accept s)

end Sys2Proof.Machine
end

