-- ==== Sys2Proof/Machine/Block.lean ====
section
/-!
DEFINITION. The block unit BCE and the BLK_ENC, BLK_DEC commands (42_block.md). Words are assembled from unsigned bytes
(rule R84, 90_conflicts.md C3).
-/

namespace Sys2Proof.Machine

/-- Decomposition of key and block into `sk[0..3]`, `v0`, `v1`, with the starting `sum` (rules R84, R86, R87). -/
def blkLoad (key block : List Byte) (sum : Word) : BlockState where
  v0 := le32At block 0
  v1 := le32At block 4
  sum := sum
  sk := tabulate fun q => le32At key (4 * q.val)

/-- The result block, `bytes32(v0) ++ bytes32(v1)` (rule R84). -/
def blkStore (b : BlockState) : List Byte := bytes32 b.v0 ++ bytes32 b.v1

/-- The half-round term `F(v, t, k)` (rule R85). -/
def feistelF (v t k : Word) : Word := (((v <<< 4) ^^^ (v >>> 5)) + v) ^^^ (t + k)

/-- The word sub-key `sk[and(x, 3)]` (rules R86, R87). -/
def subKey (sk : Vector Word 4) (x : Word) : Word := sk[Fin.ofNat 4 (x &&& 3).toNat]

/-- One iteration of `BlkEnc` (rule R86). -/
def blkEncStep (b : BlockState) : BlockState :=
  let v0 := b.v0 + feistelF b.v1 b.sum (subKey b.sk b.sum)
  let sum := b.sum + Config.bcDelta
  let v1 := b.v1 + feistelF v0 sum (subKey b.sk (sum >>> 11))
  { b with v0 := v0, v1 := v1, sum := sum }

/-- One iteration of `BlkDec` (rule R87). -/
def blkDecStep (b : BlockState) : BlockState :=
  let v1 := b.v1 - feistelF b.v0 b.sum (subKey b.sk (b.sum >>> 11))
  let sum := b.sum - Config.bcDelta
  let v0 := b.v0 - feistelF v1 sum (subKey b.sk sum)
  { b with v0 := v0, v1 := v1, sum := sum }

/-- The block-cipher state after `BlkEnc(key, block)` (rule R86). -/
def blkEncRun (key block : List Byte) : BlockState := blkEncStep^[Config.bcCycles] (blkLoad key block 0)

/-- The block-cipher state after `BlkDec(key, block)` (rule R87). -/
def blkDecRun (key block : List Byte) : BlockState := blkDecStep^[Config.bcCycles] (blkLoad key block Config.bcDecSum)

/-- `BlkEnc(key, block)` (rule R86). -/
def blkEnc (key block : List Byte) : List Byte := blkStore (blkEncRun key block)

/-- `BlkDec(key, block)` (rule R87). -/
def blkDec (key block : List Byte) : List Byte := blkStore (blkDecRun key block)

/-- BLK_ENC's and BLK_DEC's checks, in order (rules R89, R90). -/
def blkChecks (s : State) : List (Bool × ErrKind) :=
  [(s.klenNat ≠ 16 || s.lenNat ≠ 8, .keyLengthViolation),
   (s.dinAvail < 8, .ioFailure)]

/-- BLK_ENC's body (rule R89). -/
def blkEncBody (s : State) : State :=
  let b := blkEncRun s.blockKey (s.dinHead 8)
  { (s.dinPop 8).doutPush (blkStore b) with work := { s.work with block := b } }

/-- BLK_DEC's body (rule R90). -/
def blkDecBody (s : State) : State :=
  let b := blkDecRun s.blockKey (s.dinHead 8)
  { (s.dinPop 8).doutPush (blkStore b) with work := { s.work with block := b } }

/-- BLK_ENC (rule R89). -/
def execBlkEnc (s : State) : Host.Outcome State Fault Refusal :=
  .next (issue (encode .blkEnc) blkChecks blkEncBody s)

/-- BLK_DEC (rule R90). -/
def execBlkDec (s : State) : Host.Outcome State Fault Refusal :=
  .next (issue (encode .blkDec) blkChecks blkDecBody s)

end Sys2Proof.Machine
end

