-- ==== Sys2Proof/Machine/Hash.lean ====
section
/-!
DEFINITION. The hash unit HPE and the HASH command (40_hash.md).
-/

namespace Sys2Proof.Machine

/-- `AddRotate(S, r, t)` (rule R67): each high word gains its low word, then each low word is rotated left by `r`
(`r + t = 32`). -/
def addRotate (S : HashState) (r t : Nat) : HashState :=
  tabulate fun i =>
    if h : i.val < 16 then (S[i] <<< r) ^^^ (S[i] >>> t)
    else S[i] + S[i.val - 16]

/-- `MixSwap(S, m1, m2)` (rule R68), every right-hand side a value from before the step: for `k` in 0..15
`S[k] <- xor(O[xor(k, m1)], O[k+16])`, for `k` in 16..31 `S[k] <- O[xor(k, m2)]`. -/
def mixSwap (S : HashState) (m1 m2 : Fin 32) : HashState :=
  tabulate fun k =>
    if h : k.val < 16 then S[k ^^^ m1] ^^^ S[k.val + 16]
    else S[k ^^^ m2]

/-- `Round(S)` (rule R69). -/
def round (S : HashState) : HashState :=
  mixSwap (addRotate (mixSwap (addRotate S 7 25) 8 2) 11 21) 4 1

/-- `Rounds(S, n)` (rule R69). -/
def rounds (S : HashState) (n : Nat) : HashState := round^[n] S

/-- The state `HashInit` runs its rounds on (rule R70). -/
def hashSeed : HashState :=
  tabulate fun i =>
    if i.val = 0 then BitVec.ofNat 32 Config.digestBytes
    else if i.val = 1 then BitVec.ofNat 32 Config.blockBytes
    else if i.val = 2 then BitVec.ofNat 32 Config.roundParam
    else 0

/-- `HashInit()` (rule R70). -/
def hashInit : HashState := rounds hashSeed Config.initRounds

/-- `Pad(msg)` (rule R71): one byte 0x80, then zeros to a multiple of 32. -/
def pad (msg : List Byte) : List Byte :=
  msg ++ [Config.padFirst] ++ List.replicate (31 - msg.length % 32) 0

/-- The XOR of `Absorb` (rule R72): the block's eight words into words 0..7. -/
def absorbXor (S : HashState) (blk : List Byte) : HashState :=
  tabulate fun w => if w.val < 8 then S[w] ^^^ le32At blk (4 * w.val) else S[w]

/-- `Absorb(S, blk)` (rule R72). -/
def absorb (S : HashState) (blk : List Byte) : HashState := rounds (absorbXor S blk) Config.blockRounds

/-- The loop of `Hash` (rule R75): the 32-byte blocks of `P`, in order. -/
def absorbBlocks (S : HashState) (P : List Byte) : HashState :=
  (List.range (P.length / 32)).foldl (fun S b => absorb S (slice P (32 * b) 32)) S

/-- `Finalize(S)` (rule R73). -/
def finalize (S : HashState) : HashState :=
  rounds (tabulate fun i => if i.val = 31 then S[i] ^^^ 1 else S[i]) Config.finalRounds

/-- `S[0..15]`, the words that are output (rules R74, R76). -/
def digestWords (S : HashState) : Vector Word 16 := tabulate fun i => S[i.val]

/-- The little-endian serialisation of the sixteen digest words (rules R29, R74). -/
def digestString (d : Vector Word 16) : List Byte := d.toList.flatMap bytes32

/-- The state from which `Hash(msg)` takes its digest (rule R75). -/
def hashFinal (msg : List Byte) : HashState := finalize (absorbBlocks hashInit (pad msg))

/-- `Hash(msg)` (rule R75). -/
def hash (msg : List Byte) : List Byte := digestString (digestWords (hashFinal msg))

/-- HASH's check (rule R76). -/
def hashChecks (s : State) : List (Bool × ErrKind) :=
  [(s.dinAvail < s.lenNat, .ioFailure)]

/-- HASH's body (rule R76): the message goes through `S`, whose words 0..15 go to DIGEST. -/
def hashBody (s : State) : State :=
  let S := hashFinal (s.dinHead s.lenNat)
  { s.dinPop s.lenNat with
    work := { s.work with hash := S }
    digest := digestWords S }

/-- HASH (rule R76). -/
def execHash (s : State) : Host.Outcome State Fault Refusal :=
  .next (issue (encode .hash) hashChecks hashBody s)

end Sys2Proof.Machine
end

