-- ==== Sys2Proof/Machine/Stream.lean ====
section
/-!
DEFINITION. The stream unit SCE and the STRM command (41_stream.md). Index arithmetic is modulo 256 because indices are
bytes (00_scope.md, rule R9).
-/

namespace Sys2Proof.Machine

/-- Entry `i` of the table. -/
def tableAt (T : Vector Byte 256) (i : Byte) : Byte := T[i.toNat]'i.isLt

/-- Swap entries `i` and `j` of the table. -/
def tableSwap (T : Vector Byte 256) (i j : Byte) : Vector Byte 256 := T.swap i.toNat j.toNat i.isLt j.isLt

/-- The identity table, `T[i] = i` (rule R78). -/
def tableIdentity : Vector Byte 256 := tabulate fun i => BitVec.ofNat 8 i.val

/-- Step `i` of the key schedule on the table and the accumulator `j` (rule R78). -/
def ksaStep (key : List Byte) (p : Vector Byte 256 × Byte) (i : Nat) : Vector Byte 256 × Byte :=
  let j := p.2 + tableAt p.1 (BitVec.ofNat 8 i) + key.getD (i % key.length) 0
  (tableSwap p.1 (BitVec.ofNat 8 i) j, j)

/-- `Ksa(key)` (rule R78): from the identity and `j = 0`, steps 0..255. -/
def ksa (key : List Byte) : Vector Byte 256 :=
  ((List.range 256).foldl (ksaStep key) (tableIdentity, 0)).1

/-- `Prga` (rule R80): the state after one keystream step. -/
def prgaNext (c : StreamState) : StreamState :=
  let si := c.si + 1
  let sj := c.sj + tableAt c.table si
  { table := tableSwap c.table si sj, si := si, sj := sj }

/-- `Prga` (rule R80): the keystream byte, read from the state after the step. -/
def prgaByte (c : StreamState) : Byte :=
  tableAt c.table (tableAt c.table c.si + tableAt c.table c.sj)

/-- The loop of `Strm` (rule R81): the state after the data, and the output. -/
def strmLoop : StreamState → List Byte → StreamState × List Byte
  | c, [] => (c, [])
  | c, d :: ds =>
    let c' := prgaNext c
    let r := strmLoop c' ds
    (r.1, (d ^^^ prgaByte c') :: r.2)

/-- The state `Strm` starts its loop from (rule R81). -/
def strmStart (key : List Byte) : StreamState := { table := ksa key, si := 0, sj := 0 }

/-- `Strm(key, data)` with the state it leaves behind (rule R81). -/
def strmRun (key data : List Byte) : StreamState × List Byte := strmLoop (strmStart key) data

/-- `Strm(key, data)` (rule R81). -/
def strm (key data : List Byte) : List Byte := (strmRun key data).2

/-- STRM's checks, in order (rule R83). -/
def strmChecks (s : State) : List (Bool × ErrKind) :=
  [(s.klenNat = 0 || s.klenNat > 256, .keyLengthViolation),
   (s.dinAvail < s.lenNat, .ioFailure)]

/-- STRM's body (rule R83). -/
def strmBody (s : State) : State :=
  let r := strmRun s.streamKey (s.dinHead s.lenNat)
  { (s.dinPop s.lenNat).doutPush r.2 with work := { s.work with stream := r.1 } }

/-- STRM (rule R83). -/
def execStrm (s : State) : Host.Outcome State Fault Refusal :=
  .next (issue (encode .strm) strmChecks strmBody s)

end Sys2Proof.Machine
end

