-- ==== Sys2Proof/Machine/Sequencer.lean ====
section
/-!
DEFINITION. The sequencer KRS: its pure functions, its step commands and its whole-file commands (43_sequencer.md).
-/

namespace Sys2Proof.Machine

/-- `PadCount(L)` (rule R91). -/
def padCount (L : Nat) : Nat := (8 - L % 8) % 8

/-- The message that key derivation hashes (rule R92). -/
def deriveMessage (pw : List Byte) (pc : Byte) (salt : List Byte) : List Byte := pw ++ [pc] ++ salt

/-- `Derive(pw, pc, salt)` (rule R92). -/
def derive (pw : List Byte) (pc : Byte) (salt : List Byte) : List Byte := hash (deriveMessage pw pc salt)

/-- The file sub-key for chunk index `n`, `K[n mod 4]` (rule R93). -/
def fileSubKey (kmat : Vector Byte 64) (n : DWord) : List Byte := slice kmat.toList (16 * (n.toNat % 4)) 16

/-- `Header(pc, salt)` (rules R43, R94). -/
def header (pc : Byte) (salt : List Byte) : List Byte := Config.magic.toList ++ [pc] ++ salt

/-- `ChunkEnc(n, chunk)` (rule R95). -/
def chunkEnc (kmat : Vector Byte 64) (n : DWord) (chunk : List Byte) : List Byte :=
  blkEnc (fileSubKey kmat n) (strm (fileSubKey kmat n) chunk)

/-- `ChunkDec(n, c)` (rule R96). -/
def chunkDec (kmat : Vector Byte 64) (n : DWord) (c : List Byte) : List Byte :=
  strm (fileSubKey kmat n) (blkDec (fileSubKey kmat n) c)

/-- `SALT[0..128) <- RndDraw(128)` (rules R97, R105). -/
def drawSalt (s : State) : State :=
  { s.rndDraw Config.saltBytes with salt := fileOfBytes 128 (s.rndHead Config.saltBytes) }

/-- `KMAT[0..64) <- Derive(pw, PADCOUNT, SALT[0..128))` and `CHUNK <- 0` (rules R98, R105, R106). -/
def deriveKey (pw : List Byte) (s : State) : State :=
  let S := hashFinal (deriveMessage pw s.padcount s.salt.toList)
  { s with
    work := { s.work with hash := S }
    kmat := fileOfBytes 64 (digestString (digestWords S))
    chunk := 0 }

/-- `DoutPush(Header(PADCOUNT, SALT[0..128)))` (rules R99, R105). -/
def putHeader (s : State) : State := s.doutPush (header s.padcount s.salt.toList)

/-- `PADCOUNT <- h[4]` and `SALT[0..128) <- h[5..133)` for the header `h` at the head of DIN, which is removed (rules
R100, R106). -/
def getHeader (s : State) : State :=
  { s.dinPop Config.headerBytes with
    padcount := s.dinPeek 4
    salt := fileOfBytes 128 (slice s.din 5 128) }

/-- The chunk `x` goes through the stream and the block unit under `K[CHUNK mod 4]` to DOUT, and CHUNK advances (rules
R95, R101, R103, R105). -/
def encryptChunk (x : List Byte) (s : State) : State :=
  let k := fileSubKey s.kmat s.chunk
  let r := strmRun k x
  let b := blkEncRun k r.2
  { s.doutPush (blkStore b) with
    work := { s.work with stream := r.1, block := b }
    chunk := s.chunk + 1 }

/-- The ciphertext chunk `c` goes through the block and the stream unit under `K[CHUNK mod 4]`, the first `keep` bytes
of the result go to DOUT, and CHUNK advances (rules R96, R102, R104, R106). -/
def decryptChunk (c : List Byte) (keep : Nat) (s : State) : State :=
  let k := fileSubKey s.kmat s.chunk
  let b := blkDecRun k c
  let r := strmRun k (blkStore b)
  { s.doutPush (r.2.take keep) with
    work := { s.work with stream := r.1, block := b }
    chunk := s.chunk + 1 }

/-- One full chunk taken from DIN and encrypted (rules R101, R105). -/
def encryptFullChunk (s : State) : State := encryptChunk (s.dinHead 8) (s.dinPop 8)

/-- The final chunk: `8 - PADCOUNT` bytes of DIN, then `PADCOUNT` bytes of RND (rules R103, R105). -/
def encryptLastChunk (s : State) : State :=
  encryptChunk (s.dinHead (8 - s.padNat) ++ s.rndHead s.padNat) ((s.dinPop (8 - s.padNat)).rndDraw s.padNat)

/-- One chunk taken from DIN and decrypted, all 8 bytes kept (rules R102, R106). -/
def decryptFullChunk (s : State) : State := decryptChunk (s.dinHead 8) 8 (s.dinPop 8)

/-- The last chunk taken from DIN and decrypted, its first `8 - PADCOUNT` bytes kept (rules R104, R106). -/
def decryptLastChunk (s : State) : State := decryptChunk (s.dinHead 8) (8 - s.padNat) (s.dinPop 8)

/-- Step 4 of FILE_ENC (rule R105): this many chunks, the last one padded when the pad-count is not 0. -/
def encryptChunks : Nat → State → State
  | 0, s => s
  | 1, s => if s.padNat ≠ 0 then encryptLastChunk s else encryptFullChunk s
  | n + 2, s => encryptChunks (n + 1) (encryptFullChunk s)

/-- Step 3 of FILE_DEC (rule R106): this many chunks, of the last one only the data bytes kept. -/
def decryptChunks : Nat → State → State
  | 0, s => s
  | 1, s => decryptLastChunk s
  | n + 2, s => decryptChunks (n + 1) (decryptFullChunk s)

/-- The key lives for one file operation: KMAT and KVALID cleared at its end (rules R32, R105, R106). -/
def endFile (s : State) : State := { s.wipeKmat with status := { s.status with kvalid := false } }

/-- SALT_GEN (rule R97): no checks. -/
def execSaltGen (s : State) : Host.Outcome State Fault Refusal :=
  .next (issue (encode .saltGen) (fun _ => []) drawSalt s)

/-- KDF's checks, in order (rule R98). -/
def kdfChecks (s : State) : List (Bool × ErrKind) :=
  [(s.padNat > 7, .padCountRange),
   (s.dinAvail < s.pwlenNat, .ioFailure)]

/-- KDF's body (rule R98). -/
def kdfBody (s : State) : State :=
  let t := deriveKey (s.dinHead s.pwlenNat) (s.dinPop s.pwlenNat)
  { t with status := { t.status with kvalid := true } }

/-- KDF (rule R98). -/
def execKdf (s : State) : Host.Outcome State Fault Refusal :=
  .next (issue (encode .kdf) kdfChecks kdfBody s)

/-- HDR_PUT's check (rule R99). -/
def hdrPutChecks (s : State) : List (Bool × ErrKind) :=
  [(s.padNat > 7, .padCountRange)]

/-- HDR_PUT (rule R99). -/
def execHdrPut (s : State) : Host.Outcome State Fault Refusal :=
  .next (issue (encode .hdrPut) hdrPutChecks putHeader s)

/-- HDR_GET's checks, in order (rule R100): the marker first, as soon as four bytes are there. -/
def hdrGetChecks (s : State) : List (Bool × ErrKind) :=
  [(s.dinAvail ≥ 4 && s.dinHead 4 ≠ Config.magic.toList, .headerMismatch),
   (s.dinAvail < Config.headerBytes, .ioFailure),
   ((s.dinPeek 4).toNat > 7, .padCountRange)]

/-- HDR_GET (rule R100). -/
def execHdrGet (s : State) : Host.Outcome State Fault Refusal :=
  .next (issue (encode .hdrGet) hdrGetChecks getHeader s)

/-- CHUNK_ENC's and CHUNK_DEC's checks, in order (rules R101, R102). -/
def chunkChecks (s : State) : List (Bool × ErrKind) :=
  [(!s.status.kvalid, .noKey),
   (s.dinAvail < 8, .ioFailure)]

/-- CHUNK_ENC (rule R101). -/
def execChunkEnc (s : State) : Host.Outcome State Fault Refusal :=
  .next (issue (encode .chunkEnc) chunkChecks encryptFullChunk s)

/-- CHUNK_DEC (rule R102). -/
def execChunkDec (s : State) : Host.Outcome State Fault Refusal :=
  .next (issue (encode .chunkDec) chunkChecks decryptFullChunk s)

/-- CHUNK_ENC_LAST's checks, in order (rule R103). -/
def chunkEncLastChecks (s : State) : List (Bool × ErrKind) :=
  [(!s.status.kvalid, .noKey),
   (s.padNat > 7, .padCountRange),
   (s.dinAvail < 8 - s.padNat, .ioFailure)]

/-- CHUNK_ENC_LAST (rule R103). -/
def execChunkEncLast (s : State) : Host.Outcome State Fault Refusal :=
  .next (issue (encode .chunkEncLast) chunkEncLastChecks encryptLastChunk s)

/-- CHUNK_DEC_LAST's checks, in order (rule R104). -/
def chunkDecLastChecks (s : State) : List (Bool × ErrKind) :=
  [(!s.status.kvalid, .noKey),
   (s.padNat > 7, .padCountRange),
   (s.dinAvail < 8, .ioFailure)]

/-- CHUNK_DEC_LAST (rule R104). -/
def execChunkDecLast (s : State) : Host.Outcome State Fault Refusal :=
  .next (issue (encode .chunkDecLast) chunkDecLastChecks decryptLastChunk s)

/-- FILE_ENC's check (rule R105); the sum is taken in unbounded naturals. -/
def fileEncChecks (s : State) : List (Bool × ErrKind) :=
  [(s.dinAvail < s.pwlenNat + s.lenNat, .ioFailure)]

/-- Steps 1 to 3 of FILE_ENC (rule R105): the pad-count, the salt, the key, the header. -/
def fileEncStart (s : State) : State :=
  let pw := s.dinHead s.pwlenNat
  let s1 := { s.dinPop s.pwlenNat with padcount := BitVec.ofNat 8 (padCount s.lenNat) }
  putHeader (deriveKey pw (drawSalt s1))

/-- FILE_ENC's body (rule R105). -/
def fileEncBody (s : State) : State :=
  endFile (encryptChunks ((s.lenNat + padCount s.lenNat) / 8) (fileEncStart s))

/-- FILE_ENC (rule R105). -/
def execFileEnc (s : State) : Host.Outcome State Fault Refusal :=
  .next (issue (encode .fileEnc) fileEncChecks fileEncBody s)

/-- FILE_DEC's checks, in order (rule R106); `file[k]` is `DinPeek(PWLEN + k)`. -/
def fileDecChecks (s : State) : List (Bool × ErrKind) :=
  [(s.dinAvail < s.pwlenNat + s.lenNat, .ioFailure),
   (s.lenNat < 4 || slice s.din s.pwlenNat 4 ≠ Config.magic.toList, .headerMismatch),
   (s.lenNat < Config.headerBytes || (s.lenNat - Config.headerBytes) % 8 ≠ 0, .truncatedInput),
   ((s.dinPeek (s.pwlenNat + 4)).toNat > 7, .padCountRange)]

/-- Steps 1 and 2 of FILE_DEC (rule R106): the password, the header, the key. -/
def fileDecStart (s : State) : State :=
  deriveKey (s.dinHead s.pwlenNat) (getHeader (s.dinPop s.pwlenNat))

/-- FILE_DEC's body (rule R106). -/
def fileDecBody (s : State) : State :=
  endFile (decryptChunks ((s.lenNat - Config.headerBytes) / 8) (fileDecStart s))

/-- FILE_DEC (rule R106). -/
def execFileDec (s : State) : Host.Outcome State Fault Refusal :=
  .next (issue (encode .fileDec) fileDecChecks fileDecBody s)

end Sys2Proof.Machine
end

