-- ==== Sys2Proof/Machine/System.lean ====
section
/-!
DEFINITION. The system commands NOP and SOFT_RESET (44_system.md, rules R109, R110).
-/

namespace Sys2Proof.Machine

/-- NOP (rule R109): no checks, no body. -/
def execNop (s : State) : Host.Outcome State Fault Refusal :=
  .next (issue (encode .nop) (fun _ => []) (fun t => t) s)

/-- SOFT_RESET (rule R110): no checks, and accepted in the error state too (rule R63). -/
def execSoftReset (s : State) : Host.Outcome State Fault Refusal :=
  .next (complete (leaveErrorState (accept s)))

end Sys2Proof.Machine
end

