-- ==== Sys2Proof/Machine/Dispatch.lean ====
section
/-!
DEFINITION. `exec i s`: what the host's write of command `i`'s word to CMD does (30_encoding.md, rule R63).
-/

namespace Sys2Proof.Machine

def exec (i : Instr) (s : State) : Host.Outcome State Fault Refusal :=
  match i with
  | .nop => Sys2Proof.Machine.execNop s
  | .softReset => Sys2Proof.Machine.execSoftReset s
  | .hash => Sys2Proof.Machine.execHash s
  | .strm => Sys2Proof.Machine.execStrm s
  | .blkEnc => Sys2Proof.Machine.execBlkEnc s
  | .blkDec => Sys2Proof.Machine.execBlkDec s
  | .saltGen => Sys2Proof.Machine.execSaltGen s
  | .kdf => Sys2Proof.Machine.execKdf s
  | .hdrPut => Sys2Proof.Machine.execHdrPut s
  | .hdrGet => Sys2Proof.Machine.execHdrGet s
  | .chunkEnc => Sys2Proof.Machine.execChunkEnc s
  | .chunkDec => Sys2Proof.Machine.execChunkDec s
  | .chunkEncLast => Sys2Proof.Machine.execChunkEncLast s
  | .chunkDecLast => Sys2Proof.Machine.execChunkDecLast s
  | .fileEnc => Sys2Proof.Machine.execFileEnc s
  | .fileDec => Sys2Proof.Machine.execFileDec s

end Sys2Proof.Machine
end

