-- ==== Sys2Proof/Machine/Window.lean ====
section
/-!
DEFINITION. The register window as the host reads and writes it (10_state.md, rules R17 to R31; 20_memory.md, rules
R44, R46).
-/

namespace Sys2Proof.Machine

/-- The low half of a 64-bit register. -/
def loHalf (v : DWord) : Word := v.extractLsb' 0 32

/-- The high half of a 64-bit register. -/
def hiHalf (v : DWord) : Word := v.extractLsb' 32 32

/-- The 64-bit register of a high and a low half. -/
def ofHalves (hi lo : Word) : DWord := lo.setWidth 64 ||| hi.setWidth 64 <<< 32

/-- What a host read of register `r` returns (rules R17, R44): zero for write-only registers, reserved words and unnamed
bits. -/
def regRead (r : Reg) (s : State) : Word :=
  match r with
  | .cmd => 0
  | .status => statusWord s.status
  | .errcode => s.errcode.setWidth 32
  | .errinfo => s.errinfo
  | .ien => s.ien.setWidth 32
  | .id => Config.idValue
  | .lenLo => loHalf s.len
  | .lenHi => hiHalf s.len
  | .pwlen => s.pwlen
  | .klen => s.klen.setWidth 32
  | .padcount => s.padcount.setWidth 32
  | .chunkLo => loHalf s.chunk
  | .chunkHi => hiHalf s.chunk
  | .reserved _ => 0
  | .digest i => s.digest[i]
  | .salt j => fileWord s.salt j.val
  | .key _ => 0

/-- What a host write of `v` to register `r` stores (rules R17, R44): the bits the register's rule names; a read-only
register and a reserved word ignore it. CMD holds nothing: what a write to it does is `hostWrite`'s. -/
def regWrite (r : Reg) (v : Word) (s : State) : State :=
  match r with
  | .cmd => s
  | .status => { s with status := flagsWritten v s.status }
  | .errcode => s
  | .errinfo => s
  | .ien => { s with ien := v.setWidth 2 }
  | .id => s
  | .lenLo => { s with len := ofHalves (hiHalf s.len) v }
  | .lenHi => { s with len := ofHalves v (loHalf s.len) }
  | .pwlen => { s with pwlen := v }
  | .klen => { s with klen := v.setWidth 9 }
  | .padcount => { s with padcount := v.setWidth 8 }
  | .chunkLo => { s with chunk := ofHalves (hiHalf s.chunk) v }
  | .chunkHi => { s with chunk := ofHalves v (loHalf s.chunk) }
  | .reserved _ => s
  | .digest _ => s
  | .salt j => { s with salt := fileSetWord s.salt j.val v }
  | .key j => { s with key := fileSetWord s.key j.val v }

end Sys2Proof.Machine
end

