-- ==== Sys2Proof/Machine/Transactions.lean ====
section
/-!
DEFINITION. One move of the outside world (20_memory.md, rules R44, R45, R52, R54; 30_encoding.md, rule R63;
70_reset_and_hazards.md, rule R125).
-/

namespace Sys2Proof.Machine

/-- A write of the word `w` to CMD issues the command `w` (rules R18, R63). -/
def issueWord (w : Word) (s : State) : Host.Outcome State Fault Refusal :=
  match decode w with
  | .ok i => exec i s
  | .error _ => .next (issueIllegal w s)

/-- A host write of `v` to register `r` (rules R18, R44). -/
def hostWrite (r : Reg) (v : Word) (s : State) : Host.Outcome State Fault Refusal :=
  match r with
  | .cmd => issueWord v s
  | r => .next (regWrite r v s)

/-- The host is handed `a` (log 3). -/
def State.reply (s : State) (a : HostReply) : State := { s with replies := s.replies ++ [a] }

/-- `HostPush(a)` appends to the tail of DIN (rule R52). -/
def hostPush (a : List Byte) (s : State) : State := { s with din := s.din ++ a }

/-- `HostPop(n)` hands the host the first `n` bytes of DOUT and removes them; possible only when DOUT holds them (rule
R52). -/
def hostPop (n : Nat) (s : State) : Host.Outcome State Fault Refusal :=
  if s.dout.length < n then .refused .popUnavailable
  else .next ({ s with dout := s.dout.drop n }.reply (.bytes (s.dout.take n)))

/-- One transaction, performed at its place in the total order (rule R54). A register access that is no aligned 32-bit
access inside the window is no step (rule R45). -/
def perform (t : HostTx) (s : State) : Host.Outcome State Fault Refusal :=
  match t with
  | .memRead off width =>
    match accessReg off width with
    | some r => .next (s.reply (.word (regRead r s)))
    | none => .fault .busError
  | .memWrite off width v =>
    match accessReg off width with
    | some r => hostWrite r v s
    | none => .fault .busError
  | .push a => .next (hostPush a s)
  | .pop n => hostPop n s
  | .hardReset => .next (hardReset s)

end Sys2Proof.Machine
end

