-- ==== Sys2Proof/Machine/Step.lean ====
section
/-!
DEFINITION. One step: the host's next transaction (00_scope.md, rule R13). The engine does nothing of its own, so with
none pending it idles (60_exceptions.md, rule R123; log 9).
-/

namespace Sys2Proof.Machine

/-- Perform the host's next transaction; with none, nothing changes. -/
def step (s : State) : Host.Outcome State Fault Refusal :=
  match s.pending with
  | [] => .next s
  | t :: rest => perform t { s with pending := rest }

/-- The host's next transaction is the write of this command word to CMD (rules R37, R59; log 1). -/
def State.withFetchWord (s : State) (nbits w : Nat) : State :=
  { s with pending := .memWrite 0x000 4 (tableWord nbits w) :: s.pending }

end Sys2Proof.Machine
end

