-- ==== Sys2Proof/Machine/HostScript.lean ====
section
/-!
DEFINITION. The host-script forms and pseudo-instructions of 30_encoding.md (rules R65, R66), each as the transactions
it stands for.
-/

namespace Sys2Proof.Machine

/-- `WR <reg>, <u32>` (rule R65). -/
def scriptWr (r : Reg) (v : Word) : HostTx := .memWrite r.offset 4 v

/-- `RD <reg>` (rule R65). -/
def scriptRd (r : Reg) : HostTx := .memRead r.offset 4

/-- `CMD <mnemonic>` (rule R65). -/
def scriptCmd (i : Instr) : HostTx := .memWrite 0x000 4 (encode i)

/-- `CMDW <u32>` (rule R65). -/
def scriptCmdw (w : Word) : HostTx := .memWrite 0x000 4 w

/-- `PUSH <hex bytes>` (rule R65). -/
def scriptPush (a : List Byte) : HostTx := .push a

/-- `POP <n>` (rule R65). -/
def scriptPop (n : Nat) : HostTx := .pop n

/-- `SETLEN n` (rule R66). -/
def scriptSetLen (n : DWord) : List HostTx := [scriptWr .lenLo (loHalf n), scriptWr .lenHi (hiHalf n)]

/-- `SETCHUNK n` (rule R66). -/
def scriptSetChunk (n : DWord) : List HostTx := [scriptWr .chunkLo (loHalf n), scriptWr .chunkHi (hiHalf n)]

/-- The key words of `LOADKEY`: word `j` for `4j` below the key's length, padded with zeros (rule R66). -/
def scriptKeyWords (b : List Byte) : List HostTx :=
  (List.finRange 64).filterMap fun j =>
    if 4 * j.val < b.length then some (scriptWr (.key j) (le32At b (4 * j.val))) else none

/-- `LOADKEY <hex bytes>` (rule R66), for 1 to 256 bytes. -/
def scriptLoadKey (b : List Byte) : List HostTx :=
  scriptWr .klen (BitVec.ofNat 32 b.length) :: scriptKeyWords b

/-- `LOADSALT <128 hex bytes>` (rule R66). -/
def scriptLoadSalt (b : List Byte) : List HostTx :=
  (List.finRange 32).map fun j => scriptWr (.salt j) (le32At b (4 * j.val))

/-- `READDIGEST` (rule R66). -/
def scriptReadDigest : List HostTx := (List.finRange 16).map fun i => scriptRd (.digest i)

/-- `CLRDONE` (rule R66). -/
def scriptClrDone : HostTx := scriptWr .status 0x00000001

end Sys2Proof.Machine
end

