-- ==== Sys2Proof/Safety.lean ====
section
/-!
DEFINITION. What claims about the engine say: a run free of errors (60_exceptions.md, rule R118), the invariant of the
engine between transactions, what an error leaves (rule R117), the order of every command's checks (rule R113), the
contents of an encrypted and a decrypted file body (43_sequencer.md, rules R105, R106), and how many bytes each command
moves (20_memory.md, rule R50).
-/

namespace Sys2Proof.Machine

/-- Between transactions no command is in progress: BUSY is 0 (rules R19, R129) and all working state is zero (rule
R36). -/
abbrev State.Idle (s : State) : Prop := s.status.busy = false ∧ s.work = Work.zero

/-- The error record agrees with ERR: with ERR = 1 a code of rule R112 is recorded, DONE = 0 and KVALID = 0 (rules R19,
R117); with ERR = 0 ERRCODE and ERRINFO are 0 (rules R20, R21). -/
abbrev State.ErrorRecordSound (s : State) : Prop :=
  (s.status.err = true → 1 ≤ s.errcode.toNat ∧ s.errcode.toNat ≤ 7 ∧ s.status.done = false ∧ s.status.kvalid = false) ∧
  (s.status.err = false → s.errcode = 0 ∧ s.errinfo = 0)

/-- Without a valid key KMAT is zero (rule R32). -/
abbrev State.KeySound (s : State) : Prop := s.status.kvalid = false → s.kmat = Vector.replicate 64 0

/-- The invariant of the engine between transactions. -/
abbrev State.Inv (s : State) : Prop := s.Idle ∧ s.ErrorRecordSound ∧ s.KeySound

/-- A run of `n` steps with STATUS.ERR = 0 throughout and no stop: the premise rule R118 asks of a claim about a run. -/
def safeRun : Nat → State → Prop
  | 0, s => s.status.err = false
  | n + 1, s => s.status.err = false ∧ ∃ t, step s = .next t ∧ safeRun n t

/-- STATUS after a completed command: DONE = 1, ERR = 0, BUSY = 0 (rule R63). -/
def doneStatus (kvalid : Bool) : Status := { done := true, err := false, kvalid := kvalid, busy := false }

/-- What `raise` leaves (rule R117): the code, the command word, ERR = 1, DONE = 0, KVALID = 0, KMAT and all working state
zero, and nothing else changed (BUSY = 0 with the command's end, rule R19). -/
def errorState (code : Byte) (w : Word) (s : State) : State :=
  { s with
    errcode := code
    errinfo := w
    status := { done := false, err := true, kvalid := false, busy := false }
    kmat := Vector.replicate 64 0
    work := Work.zero }

/-- Commands issued one after another; the run stops at a fault or a refusal. -/
def execAll : List Instr → State → Host.Outcome State Fault Refusal
  | [], s => .next s
  | i :: rest, s =>
    match exec i s with
    | .next t => execAll rest t
    | .fault r => .fault r
    | .refused r => .refused r

/-- Rule R113's table: each command's checks in the order it tests them, as the condition under which the check fails
and the code of rule R112 that it reports. -/
def failureTable (i : Instr) (s : State) : List (Bool × Byte) :=
  match i with
  | .nop => []
  | .softReset => []
  | .hash => [(s.din.length < s.len.toNat, 0x03)]
  | .strm => [(s.klen = 0 || s.klen.toNat > 256, 0x02), (s.din.length < s.len.toNat, 0x03)]
  | .blkEnc => [(s.klen ≠ 16 || s.len ≠ 8, 0x02), (s.din.length < 8, 0x03)]
  | .blkDec => [(s.klen ≠ 16 || s.len ≠ 8, 0x02), (s.din.length < 8, 0x03)]
  | .saltGen => []
  | .kdf => [(s.padcount.toNat > 7, 0x05), (s.din.length < s.pwlen.toNat, 0x03)]
  | .hdrPut => [(s.padcount.toNat > 7, 0x05)]
  | .hdrGet =>
    [(s.din.length ≥ 4 && s.din.take 4 ≠ Config.magic.toList, 0x01), (s.din.length < 133, 0x03),
     ((s.din.getD 4 0).toNat > 7, 0x05)]
  | .chunkEnc => [(s.status.kvalid = false, 0x06), (s.din.length < 8, 0x03)]
  | .chunkDec => [(s.status.kvalid = false, 0x06), (s.din.length < 8, 0x03)]
  | .chunkEncLast =>
    [(s.status.kvalid = false, 0x06), (s.padcount.toNat > 7, 0x05), (s.din.length < 8 - s.padcount.toNat, 0x03)]
  | .chunkDecLast =>
    [(s.status.kvalid = false, 0x06), (s.padcount.toNat > 7, 0x05), (s.din.length < 8, 0x03)]
  | .fileEnc => [(s.din.length < s.pwlen.toNat + s.len.toNat, 0x03)]
  | .fileDec =>
    [(s.din.length < s.pwlen.toNat + s.len.toNat, 0x03),
     (s.len.toNat < 4 || (s.din.drop s.pwlen.toNat).take 4 ≠ Config.magic.toList, 0x01),
     (s.len.toNat < 133 || (s.len.toNat - 133) % 8 ≠ 0, 0x04),
     ((s.din.getD (s.pwlen.toNat + 4) 0).toNat > 7, 0x05)]

/-- The first failing check's code (rule R119). -/
def firstFailure (i : Instr) (s : State) : Option Byte :=
  ((failureTable i s).find? fun p => p.1).map fun p => p.2

/-- The chunks of `data`, chunk `n` encrypted under sub-key `n mod 4` (rule R105). -/
def encryptedBody (kmat : Vector Byte 64) (data : List Byte) : List Byte :=
  (List.range (data.length / 8)).flatMap fun n => chunkEnc kmat (BitVec.ofNat 64 n) (slice data (8 * n) 8)

/-- The chunks of `body`, chunk `n` decrypted under sub-key `n mod 4` (rule R106). -/
def decryptedBody (kmat : Vector Byte 64) (body : List Byte) : List Byte :=
  (List.range (body.length / 8)).flatMap fun n => chunkDec kmat (BitVec.ofNat 64 n) (slice body (8 * n) 8)

/-- The `n` random bytes that follow the first `d` draws (rule R40). -/
def randomBytes (d n : Nat) : List Byte := (List.range n).map fun k => Config.rnd (d + k)

/-- How many bytes a completing command takes from DIN (rule R50). -/
def bytesIn (i : Instr) (s : State) : Nat :=
  match i with
  | .nop => 0
  | .softReset => 0
  | .hash => s.len.toNat
  | .strm => s.len.toNat
  | .blkEnc => 8
  | .blkDec => 8
  | .saltGen => 0
  | .kdf => s.pwlen.toNat
  | .hdrPut => 0
  | .hdrGet => 133
  | .chunkEnc => 8
  | .chunkDec => 8
  | .chunkEncLast => 8 - s.padcount.toNat
  | .chunkDecLast => 8
  | .fileEnc => s.pwlen.toNat + s.len.toNat
  | .fileDec => s.pwlen.toNat + s.len.toNat

/-- How many bytes a completing command puts on DOUT (rule R50). -/
def bytesOut (i : Instr) (s : State) : Nat :=
  match i with
  | .nop => 0
  | .softReset => 0
  | .hash => 0
  | .strm => s.len.toNat
  | .blkEnc => 8
  | .blkDec => 8
  | .saltGen => 0
  | .kdf => 0
  | .hdrPut => 133
  | .hdrGet => 0
  | .chunkEnc => 8
  | .chunkDec => 8
  | .chunkEncLast => 8
  | .chunkDecLast => 8 - s.padcount.toNat
  | .fileEnc => 133 + s.len.toNat + padCount s.len.toNat
  | .fileDec => if s.len.toNat > 133 then s.len.toNat - 133 - (s.din.getD (s.pwlen.toNat + 4) 0).toNat else 0

/-- How many bytes a completing command draws from RND (rule R50). -/
def bytesDrawn (i : Instr) (s : State) : Nat :=
  match i with
  | .nop => 0
  | .softReset => 0
  | .hash => 0
  | .strm => 0
  | .blkEnc => 0
  | .blkDec => 0
  | .saltGen => 128
  | .kdf => 0
  | .hdrPut => 0
  | .hdrGet => 0
  | .chunkEnc => 0
  | .chunkDec => 0
  | .chunkEncLast => s.padcount.toNat
  | .chunkDecLast => 0
  | .fileEnc => 128 + padCount s.len.toNat
  | .fileDec => 0

end Sys2Proof.Machine
end

