-- ==== Sys2Proof/Certificates/Slice0/Obligations.lean ====
section
/-!
DEFINITION. The statements for the provers, family by family. Every statement of an instruction's result is an equation
for the whole next state, so it says the frame too: what the record update does not name is unchanged.
-/

open Sys2Proof Sys2Proof.Machine

/-! ### Encoding -/

/-- Rule R61: the word of each command, row by row; a word selects command `i` exactly when it equals that word,
equivalently when bits 31:8 are zero and bits 7:0 are an opcode of the table. -/
def Obligations.DecodeSelectsExactlyTheTableWords : Prop :=
  (encode .nop = 0x00000000 ∧ encode .softReset = 0x00000001 ∧ encode .hash = 0x00000010 ∧ encode .strm = 0x00000020 ∧
    encode .blkEnc = 0x00000030 ∧ encode .blkDec = 0x00000031 ∧ encode .saltGen = 0x00000040 ∧ encode .kdf = 0x00000041 ∧
    encode .hdrPut = 0x00000042 ∧ encode .hdrGet = 0x00000043 ∧ encode .chunkEnc = 0x00000044 ∧
    encode .chunkDec = 0x00000045 ∧ encode .chunkEncLast = 0x00000046 ∧ encode .chunkDecLast = 0x00000047 ∧
    encode .fileEnc = 0x00000050 ∧ encode .fileDec = 0x00000051) ∧
  (∀ (w : Word) (i : Instr), decode w = .ok i ↔ w = encode i) ∧
  (∀ w : Word, (∃ i, decode w = .ok i) ↔
    w.extractLsb' 8 24 = 0 ∧
      w.extractLsb' 0 8 ∈ [0x00, 0x01, 0x10, 0x20, 0x30, 0x31, 0x40, 0x41, 0x42, 0x43, 0x44, 0x45, 0x46, 0x47, 0x50, 0x51])

/-- Rules R62 and R114: there are 2^32 - 16 illegal words, and writing any of them to CMD while ERR = 0 is error entry
with code 0x07 and ERRINFO equal to the word. That the write stands in `pending` is log 1. -/
def Obligations.IllegalWordsRaiseIllegalCommand : Prop :=
  ((Finset.univ.filter fun w : Word => illegal w = true).card = 2 ^ 32 - 16) ∧
  (∀ (s : State) (w : Word) (rest : List HostTx),
    s.pending = .memWrite 0x000 4 w :: rest → s.status.err = false → (∀ i, w ≠ encode i) →
      step s = .next (errorState 0x07 w { s with pending := rest }))

/-- Some words of rule R61's table written out from it, and the two illegal words of test E6. -/
def Obligations.WrittenOutWordsDecode : Prop :=
  decode 0x00000000 = .ok .nop ∧ decode 0x00000010 = .ok .hash ∧ decode 0x00000020 = .ok .strm ∧
  decode 0x00000031 = .ok .blkDec ∧ decode 0x00000046 = .ok .chunkEncLast ∧ decode 0x00000051 = .ok .fileDec ∧
  decode 0x00000002 = .error .opcodeUndefined ∧ decode 0x00000110 = .error .zeroFieldNonzero

/-! ### The step -/

/-- The host's next transaction being the write of a command's word to CMD, the step is `exec` of that command, on the
state from which the transaction has been taken (rules R18, R63). That transactions stand in a list is log 1. -/
def Obligations.StepRunsTheDecodedCommand : Prop :=
  ∀ (s : State) (w : Word) (i : Instr) (rest : List HostTx),
    s.pending = .memWrite 0x000 4 w :: rest → decode w = .ok i →
      step s = exec i { s with pending := rest }

/-- Between commands the engine is idle (rule R123): with no transaction pending a step changes nothing (log 9). -/
def Obligations.IdleStepChangesNothing : Prop :=
  ∀ s : State, s.pending = [] → step s = .next s

/-- Rule R45: an access that is not 32 bits wide, not aligned, or outside 0x000..0x1FF is no step; the model's name for
it is `busError` (log 5). -/
def Obligations.OtherAccessesAreRefused : Prop :=
  ∀ (s : State) (off width : Nat) (v : Word) (rest : List HostTx),
    ¬(width = 4 ∧ off % 4 = 0 ∧ off ≤ 0x1FC) →
      (s.pending = .memRead off width :: rest → step s = .fault .busError) ∧
      (s.pending = .memWrite off width v :: rest → step s = .fault .busError)

/-- Rule R17's offsets: an access reaches register `r` exactly when it is 32 bits wide and at `r`'s offset; and every
aligned offset of the window is some register's. -/
def Obligations.WindowMapMatchesTheOffsets : Prop :=
  (∀ (off width : Nat) (r : Reg), accessReg off width = some r ↔ width = 4 ∧ off = r.offset) ∧
  (∀ off : Nat, off % 4 = 0 → off ≤ 0x1FC → ∃ r : Reg, r.offset = off)

/-- Rule R44: a read hands the host the register's current value and changes nothing else; a write stores what the
register's rule says, for every register but CMD (whose write issues a command). The lists are the model's (logs 1 and 3). -/
def Obligations.RegisterAccessesAnswer : Prop :=
  ∀ (s : State) (r : Reg) (v : Word) (rest : List HostTx),
    (s.pending = .memRead r.offset 4 :: rest →
      step s = .next { s with pending := rest, replies := s.replies ++ [.word (regRead r s)] }) ∧
    (s.pending = .memWrite r.offset 4 v :: rest → r ≠ .cmd →
      step s = .next (regWrite r v { s with pending := rest }))

/-- What a register reads after a write of `v` to it (rules R17, R19, R22 to R28, R30, R31): a read-write register keeps the
bits it has, STATUS loses only DONE and only for a 1 in bit 0, every other register keeps its value. -/
def Obligations.RegisterReadsBackWhatWasStored : Prop :=
  ∀ (s : State) (v : Word) (r : Reg),
    regRead r (regWrite r v s) =
      match r with
      | .status => if v &&& 1 = 1 then regRead .status s &&& 0xFFFFFFFE else regRead .status s
      | .ien => v &&& 0x3
      | .lenLo => v
      | .lenHi => v
      | .pwlen => v
      | .klen => v &&& 0x1FF
      | .padcount => v &&& 0xFF
      | .chunkLo => v
      | .chunkHi => v
      | .salt _ => v
      | .cmd => 0
      | .errcode => regRead .errcode s
      | .errinfo => regRead .errinfo s
      | .id => 0x4A430001
      | .reserved _ => 0
      | .digest i => s.digest[i]
      | .key _ => 0

/-- A register write changes no other register as the host reads it, and nothing the host cannot read but KEY: the hidden
registers, the queues and the model's own fields stay (rules R17, R44). -/
def Obligations.RegisterWritesLeaveTheRest : Prop :=
  ∀ (s : State) (v : Word) (r : Reg),
    (∀ r' : Reg, r' ≠ r → regRead r' (regWrite r v s) = regRead r' s) ∧
    (regWrite r v s).kmat = s.kmat ∧ (regWrite r v s).work = s.work ∧
    (regWrite r v s).din = s.din ∧ (regWrite r v s).dout = s.dout ∧
    (regWrite r v s).rndDrawn = s.rndDrawn ∧ (regWrite r v s).pending = s.pending ∧
    (regWrite r v s).replies = s.replies ∧
    ((∀ j, r ≠ .key j) → (regWrite r v s).key = s.key)

/-- Rule R46: writing `le32(a)` to word `j` of SALT or KEY stores `a[0..4)` at buffer positions `4j .. 4j+3` and keeps
every other byte. -/
def Obligations.BufferWordsArePackedLittleEndian : Prop :=
  ∀ (s : State) (b0 b1 b2 b3 : Byte),
    (∀ (j : Fin 64) (k : Fin 256),
      (regWrite (.key j) (leWord b0 b1 b2 b3) s).key[k] =
        if k.val / 4 = j.val then [b0, b1, b2, b3].getD (k.val % 4) 0 else s.key[k]) ∧
    (∀ (j : Fin 32) (k : Fin 128),
      (regWrite (.salt j) (leWord b0 b1 b2 b3) s).salt[k] =
        if k.val / 4 = j.val then [b0, b1, b2, b3].getD (k.val % 4) 0 else s.salt[k])

/-- No read of the window depends on KEY, KMAT or working state: whatever they hold, every register reads the same
(rules R31, R32, R36; "it can never read KEY, KMAT or working state", rule R57). -/
def Obligations.SecretsAreUnreadable : Prop :=
  ∀ (s : State) (r : Reg) (key : Vector Byte 256) (kmat : Vector Byte 64) (work : Work),
    regRead r { s with key := key, kmat := kmat, work := work } = regRead r s

/-- Rule R52: a push appends to DIN's tail, always; a pop hands over and removes DOUT's head when DOUT holds enough, and
otherwise is no move (the model's refusal, log 5). -/
def Obligations.StreamPortsAreFifo : Prop :=
  ∀ (s : State) (a : List Byte) (n : Nat) (rest : List HostTx),
    (s.pending = .push a :: rest → step s = .next { s with pending := rest, din := s.din ++ a }) ∧
    (s.pending = .pop n :: rest → n ≤ s.dout.length →
      step s = .next { s with pending := rest, dout := s.dout.drop n, replies := s.replies ++ [.bytes (s.dout.take n)] }) ∧
    (s.pending = .pop n :: rest → s.dout.length < n → step s = .refused .popUnavailable)

/-- Rule R66: SETLEN and SETCHUNK put their value into the 64-bit register, and LOADKEY of 1 to 256 bytes makes them the
key of STRM. -/
def Obligations.ScriptsLoadTheOperands : Prop :=
  ∀ (s : State) (rest : List HostTx),
    (∀ n : DWord, s.pending = scriptSetLen n ++ rest →
      Host.Core.run core 2 s = .next { s with pending := rest, len := n }) ∧
    (∀ n : DWord, s.pending = scriptSetChunk n ++ rest →
      Host.Core.run core 2 s = .next { s with pending := rest, chunk := n }) ∧
    (∀ b : List Byte, 1 ≤ b.length → b.length ≤ 256 → s.pending = scriptLoadKey b ++ rest →
      ∃ t : State, Host.Core.run core (scriptLoadKey b).length s = .next t ∧
        t = { s with pending := rest, klen := BitVec.ofNat 9 b.length, key := t.key } ∧ t.streamKey = b)

/-! ### Reset, the system commands, the interrupt line -/

/-- Rule R125's table: after hardware reset every register reads 0 but ID, the hidden registers and the working state are
zero, both queues are empty, and IRQ is low. -/
def Obligations.ResetLeavesTheSpecsValues : Prop :=
  (∀ r : Reg, regRead r State.reset = if r = .id then 0x4A430001 else 0) ∧
  (∀ k : Fin 256, State.reset.key[k] = 0) ∧ (∀ k : Fin 64, State.reset.kmat[k] = 0) ∧
  (∀ i : Fin 32, State.reset.work.hash[i] = 0) ∧
  (∀ i : Fin 256, State.reset.work.stream.table[i] = 0) ∧
  State.reset.work.stream.si = 0 ∧ State.reset.work.stream.sj = 0 ∧
  State.reset.work.block.v0 = 0 ∧ State.reset.work.block.v1 = 0 ∧ State.reset.work.block.sum = 0 ∧
  (∀ q : Fin 4, State.reset.work.block.sk[q] = 0) ∧
  State.reset.din = [] ∧ State.reset.dout = [] ∧ State.reset.irq = false

/-- The platform's reset input puts the engine into the reset state, from any state; the draw counter, the host's pending
transactions and its replies, which are not the engine's, stay (rule R125, log 10). -/
def Obligations.HardwareResetRestoresResetState : Prop :=
  ∀ (s : State) (rest : List HostTx), s.pending = .hardReset :: rest →
    step s = .next { State.reset with rndDrawn := s.rndDrawn, pending := rest, replies := s.replies }

/-- Rule R109: NOP sets DONE and changes nothing else; in the error state it is ignored. The premise `Idle` (no command in
progress, working state zero) is kept by every step. -/
def Obligations.NopSetsDoneOnly : Prop :=
  ∀ s : State, s.Idle →
    (s.status.err = false → exec .nop s = .next { s with status := { s.status with done := true } }) ∧
    (s.status.err = true → exec .nop s = .next s)

/-- Rules R110 and R126: SOFT_RESET, in the error state or not, gives the reset state but for IEN, which is kept, and
DONE, which is 1. The draw counter, the pending transactions and the replies are the model's own and stay (logs 1 to 3). -/
def Obligations.SoftResetRestoresAllButIen : Prop :=
  ∀ s : State, exec .softReset s =
    .next { State.reset with
      ien := s.ien
      status := { State.reset.status with done := true }
      rndDrawn := s.rndDrawn, pending := s.pending, replies := s.replies }

/-- Rule R121: IRQ is (DONE and DONE_IE) or (ERR and ERR_IE), as bits 0 and 1 of STATUS and IEN; and the two sources are
never both set in a state that meets the invariant. -/
def Obligations.IrqFollowsStatusAndEnables : Prop :=
  (∀ s : State, s.irq = true ↔ regRead .status s &&& regRead .ien s &&& 3 ≠ 0) ∧
  (∀ s : State, s.Inv → ¬(s.status.done = true ∧ s.status.err = true))

/-! ### Errors -/

/-- Rules R113, R117, R119: with ERR = 0, a command some of whose checks fail reports the first of them in rule R113's
order, and error entry is all it does. -/
def Obligations.FirstFailingCheckIsReported : Prop :=
  ∀ (i : Instr) (s : State) (code : Byte), s.status.err = false → firstFailure i s = some code →
    exec i s = .next (errorState code (encode i) s)

/-- Rules R14, R63: with ERR = 0, a command none of whose checks fails completes: DONE = 1, ERR = 0, BUSY = 0, all working
state zero. -/
def Obligations.CommandsCompleteWhenNoCheckFails : Prop :=
  ∀ (i : Instr) (s : State), s.status.err = false → firstFailure i s = none →
    ∃ t, exec i s = .next t ∧ t.status.done = true ∧ t.status.err = false ∧ t.status.busy = false ∧ t.work = Work.zero

/-- Rule R118: in the error state a write to CMD of any word but SOFT_RESET's changes nothing (the pending list is log 1). -/
def Obligations.ErrorStateIgnoresCommands : Prop :=
  ∀ (s : State) (w : Word) (rest : List HostTx),
    s.pending = .memWrite 0x000 4 w :: rest → s.status.err = true → w ≠ 0x00000001 →
      step s = .next { s with pending := rest }

/-- Rules R19, R20, R21, R118: once set, ERR and the error record stay as they are through every step but SOFT_RESET and
hardware reset. -/
def Obligations.OnlyResetLeavesTheErrorState : Prop :=
  ∀ s t : State, s.status.err = true → step s = .next t →
    (∃ rest, s.pending = .memWrite 0x000 4 0x00000001 :: rest) ∨ (∃ rest, s.pending = .hardReset :: rest) ∨
    (t.status.err = true ∧ t.errcode = s.errcode ∧ t.errinfo = s.errinfo)

/-! ### Hash unit -/

/-- Rule R67: each high word gains its low word, each low word rotates left by 7 or 11. -/
def Obligations.AddRotateAddsThenRotates : Prop :=
  ∀ (S : HashState) (i : Fin 16),
    (addRotate S 7 25)[16 + i.val] = S[16 + i.val] + S[i.val] ∧
    (addRotate S 7 25)[i.val] = S[i.val].rotateLeft 7 ∧
    (addRotate S 11 21)[16 + i.val] = S[16 + i.val] + S[i.val] ∧
    (addRotate S 11 21)[i.val] = S[i.val].rotateLeft 11

/-- Rule R68's two parts, pair by pair, for both mask pairs: in the low half word `i` (mask bit set) and its partner
`j = xor(i, m1)` exchange and each takes the XOR of its own high word; in the high half words `i` and `xor(i, m2)` swap.
Every right-hand side is a value from before the step. -/
def Obligations.MixSwapUsesValuesBeforeTheStep : Prop :=
  ∀ S : HashState, ∀ m ∈ [((8 : Fin 32), (2 : Fin 32)), (4, 1)],
    (∀ i j : Fin 16, i.val &&& m.1.val ≠ 0 → j.val = i.val ^^^ m.1.val →
      (mixSwap S m.1 m.2)[i.val] = S[j.val] ^^^ S[i.val + 16] ∧
      (mixSwap S m.1 m.2)[j.val] = S[i.val] ^^^ S[j.val + 16]) ∧
    (∀ i j : Fin 32, 16 ≤ i.val → i.val &&& m.2.val ≠ 0 → j.val = i.val ^^^ m.2.val →
      (mixSwap S m.1 m.2)[i.val] = S[j.val] ∧ (mixSwap S m.1 m.2)[j.val] = S[i.val])

/-- Rule R69: the full round is a bijection on the 1024-bit state, with the all-zero state a fixed point. -/
def Obligations.RoundIsABijection : Prop :=
  Function.Bijective round ∧ round (Vector.replicate 32 0) = Vector.replicate 32 0

/-- Rule R71: padding gives `floor(L/32) + 1` blocks of 32 bytes and is injective. -/
def Obligations.PaddingIsWholeBlocksAndInjective : Prop :=
  (∀ msg : List Byte, (pad msg).length = 32 * (msg.length / 32 + 1)) ∧ Function.Injective pad

/-- Rules R70, R72 to R75: the seed, the XOR of a block into words 0..7, the rounds (16 to begin, 16 after each block, 32 at
the end, after the XOR of 1 into word 31), and the digest's 64 bytes. `st b` is the state when `b` blocks are absorbed. -/
def Obligations.HashRunsTheStatedRounds : Prop :=
  (hashSeed[0] = 64 ∧ hashSeed[1] = 32 ∧ hashSeed[2] = 16 ∧ ∀ i : Fin 32, 3 ≤ i.val → hashSeed[i] = 0) ∧
  (∀ (S : HashState) (blk : List Byte) (w : Fin 32),
    (absorbXor S blk)[w] = if w.val < 8 then S[w] ^^^ le32At blk (4 * w.val) else S[w]) ∧
  (∀ msg : List Byte, ∃ (st : Nat → HashState) (fin : HashState),
    st 0 = Machine.round^[16] hashSeed ∧
    (∀ b : Nat, b < (pad msg).length / 32 →
      st (b + 1) = Machine.round^[16] (absorbXor (st b) (slice (pad msg) (32 * b) 32))) ∧
    (∀ i : Fin 32, fin[i] = if i.val = 31 then (st ((pad msg).length / 32))[i] ^^^ 1 else (st ((pad msg).length / 32))[i]) ∧
    hashFinal msg = Machine.round^[32] fin) ∧
  (∀ msg : List Byte, (Machine.hash msg).length = 64 ∧
    ∀ k : Fin 64, (Machine.hash msg).getD k.val 0 = byteLane (hashFinal msg)[k.val / 4] (k.val % 4))

/-- Rule R76: HASH. -/
def Obligations.HashCommandWritesDigest : Prop :=
  ∀ s : State, s.status.err = false →
    (s.din.length < s.len.toNat → exec .hash s = .next (errorState 0x03 0x00000010 s)) ∧
    (s.len.toNat ≤ s.din.length → exec .hash s =
      .next { s with
        din := s.din.drop s.len.toNat
        digest := digestWords (hashFinal (s.din.take s.len.toNat))
        work := Work.zero
        status := doneStatus s.status.kvalid })

/-! ### Stream unit -/

/-- Rules R34, R78, R80: the table is a permutation after the key schedule and after every keystream step. -/
def Obligations.StreamTableStaysAPermutation : Prop :=
  ∀ (key : List Byte) (n : Nat), Function.Bijective (tableAt (prgaNext^[n] (strmStart key)).table)

/-- Rules R78, R80, R81: the key schedule's table and accumulator step by step, then the keystream's table and indices,
and every output byte. `T i`, `j i` are the table and the accumulator before step `i` of the schedule; `c p` is the state
after `p` keystream steps. -/
def Obligations.StreamRunsTheStatedSteps : Prop :=
  ∀ key data : List Byte, key ≠ [] →
    ∃ (T : Nat → Vector Byte 256) (j : Nat → Byte) (c : Nat → StreamState),
      (∀ k : Byte, tableAt (T 0) k = k) ∧ j 0 = 0 ∧
      (∀ i : Nat, i < 256 →
        j (i + 1) = j i + tableAt (T i) (BitVec.ofNat 8 i) + key.getD (i % key.length) 0 ∧
        T (i + 1) = tableSwap (T i) (BitVec.ofNat 8 i) (j (i + 1))) ∧
      c 0 = { table := T 256, si := 0, sj := 0 } ∧
      (∀ p : Nat,
        (c (p + 1)).si = (c p).si + 1 ∧
        (c (p + 1)).sj = (c p).sj + tableAt (c p).table (c (p + 1)).si ∧
        (c (p + 1)).table = tableSwap (c p).table (c (p + 1)).si (c (p + 1)).sj) ∧
      (strm key data).length = data.length ∧
      ∀ p : Nat, p < data.length →
        (strm key data).getD p 0 = data.getD p 0 ^^^
          tableAt (c (p + 1)).table
            (tableAt (c (p + 1)).table (c (p + 1)).si + tableAt (c (p + 1)).table (c (p + 1)).sj)

/-- Rules R78, R79: bytes of a key beyond the first 256 are never read. -/
def Obligations.KeyScheduleReadsFirst256Bytes : Prop :=
  ∀ (key data : List Byte), 256 ≤ key.length → strm key data = strm (key.take 256) data

/-- Rules R81, R82: the transform keeps the length, and applying it twice with the same non-empty key restores the data. -/
def Obligations.StreamTransformIsItsOwnInverse : Prop :=
  ∀ (key data : List Byte), key ≠ [] →
    (strm key data).length = data.length ∧ strm key (strm key data) = data

/-- Rule R83: STRM. -/
def Obligations.StrmCommandTransforms : Prop :=
  ∀ s : State, s.status.err = false →
    (s.klen.toNat = 0 ∨ 256 < s.klen.toNat → exec .strm s = .next (errorState 0x02 0x00000020 s)) ∧
    (1 ≤ s.klen.toNat → s.klen.toNat ≤ 256 → s.din.length < s.len.toNat →
      exec .strm s = .next (errorState 0x03 0x00000020 s)) ∧
    (1 ≤ s.klen.toNat → s.klen.toNat ≤ 256 → s.len.toNat ≤ s.din.length →
      exec .strm s =
        .next { s with
          din := s.din.drop s.len.toNat
          dout := s.dout ++ strm (s.key.toList.take s.klen.toNat) (s.din.take s.len.toNat)
          work := Work.zero
          status := doneStatus s.status.kvalid })

/-! ### Block unit -/

/-- Rule R88: encryption and decryption are inverse to each other, both ways, and encryption is no involution. -/
def Obligations.BlockCipherIsAnInversePair : Prop :=
  (∀ key block : List Byte, key.length = 16 → block.length = 8 →
    blkDec key (blkEnc key block) = block ∧ blkEnc key (blkDec key block) = block) ∧
  (∃ key block : List Byte, key.length = 16 ∧ block.length = 8 ∧ blkEnc key (blkEnc key block) ≠ block)

/-- Rules R84 to R87: the words, the running `sum` and the two updates of every iteration, both ways; `r` counts the
iterations done. -/
def Obligations.BlockFunctionsRunTheStatedIterations : Prop :=
  (∀ v s k : Word, feistelF v s k = ((v <<< 4 ^^^ v >>> 5) + v) ^^^ (s + k)) ∧
  (∀ key block : List Byte, key.length = 16 → block.length = 8 →
    (∃ v0 v1 sum : Nat → Word,
      v0 0 = le32At block 0 ∧ v1 0 = le32At block 4 ∧ sum 0 = 0 ∧
      (∀ r : Nat,
        v0 (r + 1) = v0 r + feistelF (v1 r) (sum r) (le32At key (4 * (sum r &&& 3).toNat)) ∧
        sum (r + 1) = sum r + 0x9E3779B9 ∧
        v1 (r + 1) = v1 r +
          feistelF (v0 (r + 1)) (sum (r + 1)) (le32At key (4 * (sum (r + 1) >>> 11 &&& 3).toNat))) ∧
      sum 32 = 0xC6EF3720 ∧ blkEnc key block = bytes32 (v0 32) ++ bytes32 (v1 32)) ∧
    (∃ v0 v1 sum : Nat → Word,
      v0 0 = le32At block 0 ∧ v1 0 = le32At block 4 ∧ sum 0 = 0xC6EF3720 ∧
      (∀ r : Nat,
        v1 (r + 1) = v1 r - feistelF (v0 r) (sum r) (le32At key (4 * (sum r >>> 11 &&& 3).toNat)) ∧
        sum (r + 1) = sum r - 0x9E3779B9 ∧
        v0 (r + 1) = v0 r - feistelF (v1 (r + 1)) (sum (r + 1)) (le32At key (4 * (sum (r + 1) &&& 3).toNat))) ∧
      sum 32 = 0 ∧ blkDec key block = bytes32 (v0 32) ++ bytes32 (v1 32)))

/-- Rule R89: BLK_ENC. -/
def Obligations.BlkEncCommandEnciphers : Prop :=
  ∀ s : State, s.status.err = false →
    (s.klen.toNat ≠ 16 ∨ s.len.toNat ≠ 8 → exec .blkEnc s = .next (errorState 0x02 0x00000030 s)) ∧
    (s.klen.toNat = 16 → s.len.toNat = 8 → s.din.length < 8 →
      exec .blkEnc s = .next (errorState 0x03 0x00000030 s)) ∧
    (s.klen.toNat = 16 → s.len.toNat = 8 → 8 ≤ s.din.length →
      exec .blkEnc s =
        .next { s with
          din := s.din.drop 8
          dout := s.dout ++ blkEnc (s.key.toList.take 16) (s.din.take 8)
          work := Work.zero
          status := doneStatus s.status.kvalid })

/-- Rule R90: BLK_DEC. -/
def Obligations.BlkDecCommandDeciphers : Prop :=
  ∀ s : State, s.status.err = false →
    (s.klen.toNat ≠ 16 ∨ s.len.toNat ≠ 8 → exec .blkDec s = .next (errorState 0x02 0x00000031 s)) ∧
    (s.klen.toNat = 16 → s.len.toNat = 8 → s.din.length < 8 →
      exec .blkDec s = .next (errorState 0x03 0x00000031 s)) ∧
    (s.klen.toNat = 16 → s.len.toNat = 8 → 8 ≤ s.din.length →
      exec .blkDec s =
        .next { s with
          din := s.din.drop 8
          dout := s.dout ++ blkDec (s.key.toList.take 16) (s.din.take 8)
          work := Work.zero
          status := doneStatus s.status.kvalid })

/-! ### Sequencer: functions -/

/-- Rule R91: the pad-count is at most 7, and the length with it is the least multiple of 8 that is not less. -/
def Obligations.PadCountReachesTheNextMultiple : Prop :=
  ∀ L : Nat, padCount L ≤ 7 ∧ (L + padCount L) % 8 = 0 ∧ ∀ M : Nat, L ≤ M → M % 8 = 0 → L + padCount L ≤ M

/-- Rule R48: word sub-key `q` of file sub-key `m` is hash-state word `4m + q` of the key derivation. -/
def Obligations.WordSubKeysAreHashWords : Prop :=
  ∀ (H : HashState) (n : DWord) (q : Fin 4),
    le32At (fileSubKey (fileOfBytes 64 (digestString (digestWords H))) n) (4 * q.val) = H[4 * (n.toNat % 4) + q.val]

/-- Rule R96: decrypting an encrypted 8-byte chunk under the same key material and index gives the chunk. -/
def Obligations.ChunkDecryptionInvertsEncryption : Prop :=
  ∀ (kmat : Vector Byte 64) (n : DWord) (x : List Byte), x.length = 8 →
    chunkDec kmat n (chunkEnc kmat n x) = x

/-- Rules R28, R93, R95: the sub-key rotates with period 4, also where CHUNK wraps at 2^64. -/
def Obligations.SubKeysRotateWithPeriodFour : Prop :=
  ∀ (kmat : Vector Byte 64) (n : DWord) (x : List Byte),
    chunkEnc kmat (n + 4) x = chunkEnc kmat n x ∧ chunkDec kmat (n + 4) x = chunkDec kmat n x

/-! ### Sequencer: step commands -/

/-- Rule R97: SALT_GEN; byte `k` of the salt is the `(k+1)`-th byte drawn (RND's bytes are free values, log 2). -/
def Obligations.SaltGenDrawsTheSalt : Prop :=
  ∀ s : State, s.status.err = false →
    exec .saltGen s =
      .next { s with
        salt := Vector.ofFn fun k => Config.rnd (s.rndDrawn + k.val)
        rndDrawn := s.rndDrawn + 128
        work := Work.zero
        status := doneStatus s.status.kvalid }

/-- Rule R98: KDF. -/
def Obligations.KdfDerivesTheKey : Prop :=
  ∀ s : State, s.status.err = false →
    (7 < s.padcount.toNat → exec .kdf s = .next (errorState 0x05 0x00000041 s)) ∧
    (s.padcount.toNat ≤ 7 → s.din.length < s.pwlen.toNat → exec .kdf s = .next (errorState 0x03 0x00000041 s)) ∧
    (s.padcount.toNat ≤ 7 → s.pwlen.toNat ≤ s.din.length →
      exec .kdf s =
        .next { s with
          din := s.din.drop s.pwlen.toNat
          kmat := Vector.ofFn fun k =>
            (Machine.hash (s.din.take s.pwlen.toNat ++ [s.padcount] ++ s.salt.toList)).getD k.val 0
          chunk := 0
          work := Work.zero
          status := doneStatus true })

/-- Rule R99: HDR_PUT; the header is MAGIC, the pad-count byte, the salt (rules R43, R94). -/
def Obligations.HdrPutWritesTheHeader : Prop :=
  ∀ s : State, s.status.err = false →
    (7 < s.padcount.toNat → exec .hdrPut s = .next (errorState 0x05 0x00000042 s)) ∧
    (s.padcount.toNat ≤ 7 →
      exec .hdrPut s =
        .next { s with
          dout := s.dout ++ (Config.magic.toList ++ [s.padcount] ++ s.salt.toList)
          work := Work.zero
          status := doneStatus s.status.kvalid })

/-- Rule R100: HDR_GET, its checks in order and its result. -/
def Obligations.HdrGetReadsTheHeader : Prop :=
  ∀ s : State, s.status.err = false →
    (4 ≤ s.din.length → s.din.take 4 ≠ Config.magic.toList →
      exec .hdrGet s = .next (errorState 0x01 0x00000043 s)) ∧
    (s.din.length < 4 ∨ s.din.take 4 = Config.magic.toList → s.din.length < 133 →
      exec .hdrGet s = .next (errorState 0x03 0x00000043 s)) ∧
    (s.din.take 4 = Config.magic.toList → 133 ≤ s.din.length → 7 < (s.din.getD 4 0).toNat →
      exec .hdrGet s = .next (errorState 0x05 0x00000043 s)) ∧
    (s.din.take 4 = Config.magic.toList → 133 ≤ s.din.length → (s.din.getD 4 0).toNat ≤ 7 →
      exec .hdrGet s =
        .next { s with
          din := s.din.drop 133
          padcount := s.din.getD 4 0
          salt := Vector.ofFn fun k => s.din.getD (5 + k.val) 0
          work := Work.zero
          status := doneStatus s.status.kvalid })

/-- Rule R101: CHUNK_ENC. -/
def Obligations.ChunkEncCommandEncrypts : Prop :=
  ∀ s : State, s.status.err = false →
    (s.status.kvalid = false → exec .chunkEnc s = .next (errorState 0x06 0x00000044 s)) ∧
    (s.status.kvalid = true → s.din.length < 8 → exec .chunkEnc s = .next (errorState 0x03 0x00000044 s)) ∧
    (s.status.kvalid = true → 8 ≤ s.din.length →
      exec .chunkEnc s =
        .next { s with
          din := s.din.drop 8
          dout := s.dout ++ chunkEnc s.kmat s.chunk (s.din.take 8)
          chunk := s.chunk + 1
          work := Work.zero
          status := doneStatus true })

/-- Rule R102: CHUNK_DEC. -/
def Obligations.ChunkDecCommandDecrypts : Prop :=
  ∀ s : State, s.status.err = false →
    (s.status.kvalid = false → exec .chunkDec s = .next (errorState 0x06 0x00000045 s)) ∧
    (s.status.kvalid = true → s.din.length < 8 → exec .chunkDec s = .next (errorState 0x03 0x00000045 s)) ∧
    (s.status.kvalid = true → 8 ≤ s.din.length →
      exec .chunkDec s =
        .next { s with
          din := s.din.drop 8
          dout := s.dout ++ chunkDec s.kmat s.chunk (s.din.take 8)
          chunk := s.chunk + 1
          work := Work.zero
          status := doneStatus true })

/-- Rule R103: CHUNK_ENC_LAST; data first, `PADCOUNT` bytes of filler after it (free values, log 2). -/
def Obligations.ChunkEncLastPadsAndEncrypts : Prop :=
  ∀ s : State, s.status.err = false →
    (s.status.kvalid = false → exec .chunkEncLast s = .next (errorState 0x06 0x00000046 s)) ∧
    (s.status.kvalid = true → 7 < s.padcount.toNat → exec .chunkEncLast s = .next (errorState 0x05 0x00000046 s)) ∧
    (s.status.kvalid = true → s.padcount.toNat ≤ 7 → s.din.length < 8 - s.padcount.toNat →
      exec .chunkEncLast s = .next (errorState 0x03 0x00000046 s)) ∧
    (s.status.kvalid = true → s.padcount.toNat ≤ 7 → 8 - s.padcount.toNat ≤ s.din.length →
      exec .chunkEncLast s =
        .next { s with
          din := s.din.drop (8 - s.padcount.toNat)
          dout := s.dout ++ chunkEnc s.kmat s.chunk
            (s.din.take (8 - s.padcount.toNat) ++ randomBytes s.rndDrawn s.padcount.toNat)
          rndDrawn := s.rndDrawn + s.padcount.toNat
          chunk := s.chunk + 1
          work := Work.zero
          status := doneStatus true })

/-- Rule R104: CHUNK_DEC_LAST; the trailing `PADCOUNT` bytes are discarded. -/
def Obligations.ChunkDecLastDropsTheFiller : Prop :=
  ∀ s : State, s.status.err = false →
    (s.status.kvalid = false → exec .chunkDecLast s = .next (errorState 0x06 0x00000047 s)) ∧
    (s.status.kvalid = true → 7 < s.padcount.toNat → exec .chunkDecLast s = .next (errorState 0x05 0x00000047 s)) ∧
    (s.status.kvalid = true → s.padcount.toNat ≤ 7 → s.din.length < 8 →
      exec .chunkDecLast s = .next (errorState 0x03 0x00000047 s)) ∧
    (s.status.kvalid = true → s.padcount.toNat ≤ 7 → 8 ≤ s.din.length →
      exec .chunkDecLast s =
        .next { s with
          din := s.din.drop 8
          dout := s.dout ++ (chunkDec s.kmat s.chunk (s.din.take 8)).take (8 - s.padcount.toNat)
          chunk := s.chunk + 1
          work := Work.zero
          status := doneStatus true })

/-! ### Sequencer: whole-file commands -/

/-- Rule R105: FILE_ENC. The output is the header, then every 8-byte unit of the plaintext with its filler, unit `n`
encrypted under sub-key `n mod 4`; RND gives 128 bytes for the salt, then the filler (free values, log 2). -/
def Obligations.FileEncProducesTheFile : Prop :=
  ∀ s : State, s.status.err = false →
    (s.din.length < s.pwlen.toNat + s.len.toNat → exec .fileEnc s = .next (errorState 0x03 0x00000050 s)) ∧
    (s.pwlen.toNat + s.len.toNat ≤ s.din.length →
      ∀ (pw data salt : List Byte) (pc : Nat) (kmat : Vector Byte 64),
        pw = s.din.take s.pwlen.toNat → data = (s.din.drop s.pwlen.toNat).take s.len.toNat →
        pc = padCount s.len.toNat → salt = randomBytes s.rndDrawn 128 →
        kmat = fileOfBytes 64 (Machine.hash (pw ++ [BitVec.ofNat 8 pc] ++ salt)) →
        exec .fileEnc s =
          .next { s with
            din := s.din.drop (s.pwlen.toNat + s.len.toNat)
            dout := s.dout ++ (Config.magic.toList ++ [BitVec.ofNat 8 pc] ++ salt) ++
              encryptedBody kmat (data ++ randomBytes (s.rndDrawn + 128) pc)
            padcount := BitVec.ofNat 8 pc
            salt := fileOfBytes 128 salt
            chunk := BitVec.ofNat 64 ((s.len.toNat + pc) / 8)
            kmat := Vector.replicate 64 0
            rndDrawn := s.rndDrawn + 128 + pc
            work := Work.zero
            status := doneStatus false })

/-- Rule R106: FILE_DEC, its checks in order, and its result: every 8-byte ciphertext chunk decrypted under its sub-key,
the last `pc` bytes discarded. -/
def Obligations.FileDecRecoversTheContent : Prop :=
  ∀ s : State, s.status.err = false →
    (s.din.length < s.pwlen.toNat + s.len.toNat → exec .fileDec s = .next (errorState 0x03 0x00000051 s)) ∧
    (s.pwlen.toNat + s.len.toNat ≤ s.din.length →
      ∀ (pw file salt : List Byte) (pc : Byte) (kmat : Vector Byte 64),
        pw = s.din.take s.pwlen.toNat → file = (s.din.drop s.pwlen.toNat).take s.len.toNat →
        pc = file.getD 4 0 → salt = slice file 5 128 → kmat = fileOfBytes 64 (Machine.hash (pw ++ [pc] ++ salt)) →
        (file.length < 4 ∨ file.take 4 ≠ Config.magic.toList →
          exec .fileDec s = .next (errorState 0x01 0x00000051 s)) ∧
        (4 ≤ file.length → file.take 4 = Config.magic.toList →
          file.length < 133 ∨ (file.length - 133) % 8 ≠ 0 →
          exec .fileDec s = .next (errorState 0x04 0x00000051 s)) ∧
        (file.take 4 = Config.magic.toList → 133 ≤ file.length → (file.length - 133) % 8 = 0 → 7 < pc.toNat →
          exec .fileDec s = .next (errorState 0x05 0x00000051 s)) ∧
        (file.take 4 = Config.magic.toList → 133 ≤ file.length → (file.length - 133) % 8 = 0 → pc.toNat ≤ 7 →
          exec .fileDec s =
            .next { s with
              din := s.din.drop (s.pwlen.toNat + s.len.toNat)
              dout := s.dout ++ (decryptedBody kmat (file.drop 133)).take (file.length - 133 - pc.toNat)
              padcount := pc
              salt := fileOfBytes 128 salt
              chunk := BitVec.ofNat 64 ((file.length - 133) / 8)
              kmat := Vector.replicate 64 0
              work := Work.zero
              status := doneStatus false }))

/-- The end of rule R105: FILE_ENC does what the step commands do one after another (program P3 of 95_test_vectors.md):
with PADCOUNT set to the computed pad-count, SALT_GEN, KDF, HDR_PUT, then CHUNK_ENC for every full chunk and
CHUNK_ENC_LAST for a padded one, but for the key, which FILE_ENC clears at its end. -/
def Obligations.FileEncEqualsTheStepCommands : Prop :=
  ∀ s : State, s.status.err = false → s.pwlen.toNat + s.len.toNat ≤ s.din.length →
    ∃ u : State,
      execAll
        ([.saltGen, .kdf, .hdrPut] ++ List.replicate (s.len.toNat / 8) .chunkEnc ++
          if s.len.toNat % 8 = 0 then [] else [.chunkEncLast])
        { s with padcount := BitVec.ofNat 8 (padCount s.len.toNat) } = .next u ∧
      exec .fileEnc s =
        .next { u with kmat := Vector.replicate 64 0, status := { u.status with kvalid := false } }

/-- Rule R107, the file round trip: for every password, every plaintext whose file length fits LEN, and every answer of
RND, if FILE_ENC appends the string `f` to DOUT then FILE_DEC with the same password and input `f` appends exactly the
plaintext. The two commands may run on different states. -/
def Obligations.FileRoundTrip : Prop :=
  ∀ (pw d : List Byte) (s : State),
    s.status.err = false → pw.length < 2 ^ 32 → d.length ≤ 2 ^ 64 - 141 →
    s.pwlen.toNat = pw.length → s.len.toNat = d.length → s.din = pw ++ d →
    ∃ (f : List Byte) (s' : State), exec .fileEnc s = .next s' ∧ s'.dout = s.dout ++ f ∧
      ∀ t : State, t.status.err = false → t.pwlen.toNat = pw.length → t.len.toNat = f.length → t.din = pw ++ f →
        ∃ t' : State, exec .fileDec t = .next t' ∧ t'.status.err = false ∧ t'.status.done = true ∧ t'.dout = t.dout ++ d

/-! ### The whole machine -/

/-- Every step keeps the invariant of the engine between transactions: no command in progress and working state zero
(rules R19, R36), the error record agreeing with ERR (rules R19, R20, R21, R117), no key material without KVALID
(rule R32). -/
def Obligations.EveryStepKeepsTheInvariant : Prop :=
  ∀ s t : State, s.Inv → step s = .next t → t.Inv

/-- The reset state meets the invariant. -/
def Obligations.ResetMeetsTheInvariant : Prop :=
  State.reset.Inv

/-- Rules R36, R131: no command's result depends on working state left by an earlier one. -/
def Obligations.NoCommandSeesEarlierWorkingState : Prop :=
  ∀ (i : Instr) (s : State) (w : Work), s.status.err = false ∨ i = .softReset →
    exec i { s with work := w } = exec i s

/-- No command but SOFT_RESET writes LEN, PWLEN, KLEN, KEY or IEN (rules R22, R24, R25, R26, R31), nor the host's own
fields. -/
def Obligations.CommandsLeaveTheOperandRegisters : Prop :=
  ∀ (i : Instr) (s t : State), i ≠ .softReset → exec i s = .next t →
    t.len = s.len ∧ t.pwlen = s.pwlen ∧ t.klen = s.klen ∧ t.key = s.key ∧ t.ien = s.ien ∧
    t.pending = s.pending ∧ t.replies = s.replies

/-- Who writes each result register (rules R27, R28, R29, R30, R32): but for SOFT_RESET, DIGEST only HASH; SALT only
SALT_GEN, HDR_GET, FILE_ENC, FILE_DEC; PADCOUNT only HDR_GET, FILE_ENC, FILE_DEC; CHUNK only KDF, the chunk commands,
FILE_ENC, FILE_DEC; and KMAT only KDF, FILE_ENC, FILE_DEC or an error. -/
def Obligations.ResultRegistersHaveTheirWriters : Prop :=
  ∀ (i : Instr) (s t : State), i ≠ .softReset → exec i s = .next t →
    (i ≠ .hash → t.digest = s.digest) ∧
    (i ∉ [Instr.saltGen, .hdrGet, .fileEnc, .fileDec] → t.salt = s.salt) ∧
    (i ∉ [Instr.hdrGet, .fileEnc, .fileDec] → t.padcount = s.padcount) ∧
    (i ∉ [Instr.kdf, .chunkEnc, .chunkDec, .chunkEncLast, .chunkDecLast, .fileEnc, .fileDec] → t.chunk = s.chunk) ∧
    (i ∉ [Instr.kdf, .fileEnc, .fileDec] → t.status.err = false → t.kmat = s.kmat)

/-- Rule R50's amounts: a completing command takes from the head of DIN, appends to the tail of DOUT and draws from RND
exactly as many bytes as the rule says (the draw counter is log 2). -/
def Obligations.CommandsMoveTheStatedBytes : Prop :=
  ∀ (i : Instr) (s : State), i ≠ .softReset → s.status.err = false → firstFailure i s = none →
    ∃ (t : State) (out : List Byte), exec i s = .next t ∧
      bytesIn i s ≤ s.din.length ∧ t.din = s.din.drop (bytesIn i s) ∧
      t.dout = s.dout ++ out ∧ out.length = bytesOut i s ∧ t.rndDrawn = s.rndDrawn + bytesDrawn i s
end

