-- ==== Sys2Proof/Laws/Bytes.lean ====
section
/-!
SUPPORT. Laws of tables, byte strings and the byte order (rules R10, R46, R47): reading a tabulated entry, and words and
their four bytes determining each other.
-/

namespace Sys2Proof.Machine

@[simp] theorem tabulate_getElem {α : Type} {n : Nat} (f : Fin n → α) (k : Nat) (h : k < n) :
    (tabulate f)[k] = f ⟨k, h⟩ := by
  simp [tabulate]

theorem tabulate_toList {α : Type} {n : Nat} (f : Fin n → α) : (tabulate f).toList = List.ofFn f := rfl

theorem tabulate_eq_ofFn {α : Type} {n : Nat} (f : Fin n → α) : tabulate f = Vector.ofFn f := by
  ext k h
  simp

@[simp] theorem slice_length (a : List Byte) (k n : Nat) : (slice a k n).length = min n (a.length - k) := by
  simp [slice]

/-- Byte `i` of a slice is byte `k + i` of the string. -/
theorem slice_getD (a : List Byte) (k n i : Nat) (h : i < n) : (slice a k n).getD i 0 = a.getD (k + i) 0 := by
  simp [slice, List.getD_eq_getElem?_getD, h]

@[simp] theorem bytes32_length (w : Word) : (bytes32 w).length = 4 := rfl

/-- Rule R10: `le32(bytes32(w)) = w`. -/
@[simp] theorem leWord_byteLanes (w : Word) :
    leWord (byteLane w 0) (byteLane w 1) (byteLane w 2) (byteLane w 3) = w := by
  ext i hi
  simp only [leWord, byteLane, ← BitVec.getLsbD_eq_getElem]
  rcases (by omega : i < 8 ∨ (8 ≤ i ∧ i < 16) ∨ (16 ≤ i ∧ i < 24) ∨ (24 ≤ i ∧ i < 32)) with h | h | h | h
  · simp [hi, h, show i < 16 by omega, show i < 24 by omega]
  · simp [hi, h, show ¬i < 8 by omega, show i < 24 by omega, show i - 8 < 8 by omega, show 8 + (i - 8) = i by omega]
  · simp [hi, h, show ¬i < 8 by omega, show ¬i < 16 by omega, show ¬i - 8 < 8 by omega, show i - 16 < 8 by omega,
      show 16 + (i - 16) = i by omega]
  · simp [hi, show ¬i < 8 by omega, show ¬i < 16 by omega, show ¬i < 24 by omega, show ¬i - 8 < 8 by omega,
      show ¬i - 16 < 8 by omega, show i - 24 < 8 by omega, show 24 + (i - 24) = i by omega]

/-- Rule R10: `bytes32(le32(a)) = a`, lane by lane. -/
@[simp] theorem byteLane_leWord_0 (b0 b1 b2 b3 : Byte) : byteLane (leWord b0 b1 b2 b3) 0 = b0 := by
  ext i hi
  simp [leWord, byteLane, hi, show i < 16 by omega, show i < 24 by omega, show i < 32 by omega]

@[simp] theorem byteLane_leWord_1 (b0 b1 b2 b3 : Byte) : byteLane (leWord b0 b1 b2 b3) 1 = b1 := by
  ext i hi
  simp [leWord, byteLane, hi, show 8 + i < 16 by omega, show 8 + i < 24 by omega, show 8 + i < 32 by omega]

@[simp] theorem byteLane_leWord_2 (b0 b1 b2 b3 : Byte) : byteLane (leWord b0 b1 b2 b3) 2 = b2 := by
  ext i hi
  simp [leWord, byteLane, hi, show 16 + i < 24 by omega, show 16 + i < 32 by omega,
    show 16 + i - 8 = 8 + i by omega, BitVec.getLsbD_of_ge b0 (16 + i) (by omega)]

@[simp] theorem byteLane_leWord_3 (b0 b1 b2 b3 : Byte) : byteLane (leWord b0 b1 b2 b3) 3 = b3 := by
  ext i hi
  simp [leWord, byteLane, hi, show 24 + i < 32 by omega, show 24 + i - 8 = 16 + i by omega,
    show 24 + i - 16 = 8 + i by omega, BitVec.getLsbD_of_ge b0 (24 + i) (by omega),
    BitVec.getLsbD_of_ge b1 (16 + i) (by omega)]

theorem bytes32_leWord (b0 b1 b2 b3 : Byte) : bytes32 (leWord b0 b1 b2 b3) = [b0, b1, b2, b3] := by
  simp [bytes32]

/-- The word at the head of a string that begins with a word's bytes. -/
@[simp] theorem le32At_bytes32_zero (w : Word) (a : List Byte) : le32At (bytes32 w ++ a) 0 = w := by
  simp [le32At, bytes32]

/-- Behind four bytes of a word, positions count from the rest. -/
@[simp] theorem le32At_bytes32_add (w : Word) (a : List Byte) (k : Nat) : le32At (bytes32 w ++ a) (k + 4) = le32At a k := by
  simp [le32At, bytes32, show k + 4 + 1 = k + 1 + 4 by omega, show k + 4 + 2 = k + 2 + 4 by omega,
    show k + 4 + 3 = k + 3 + 4 by omega]

@[simp] theorem fileOfBytes_getElem (n : Nat) (a : List Byte) (k : Nat) (h : k < n) :
    (fileOfBytes n a)[k] = a.getD k 0 := by
  simp [fileOfBytes]

/-- A byte string of the file's size, put into the file and read out again. -/
theorem fileOfBytes_toList (n : Nat) (a : List Byte) (h : a.length = n) : (fileOfBytes n a).toList = a := by
  subst h
  apply List.ext_getElem
  · simp
  · intro k h1 h2
    simp [h2]

theorem fileSetWord_getElem {n : Nat} (file : Vector Byte n) (j : Nat) (v : Word) (k : Nat) (h : k < n) :
    (fileSetWord file j v)[k] = if k / 4 = j then byteLane v (k % 4) else file[k] := by
  simp [fileSetWord]

end Sys2Proof.Machine
end

