-- ==== Sys2Proof/Laws/Block.lean ====
section
/-!
SUPPORT. Laws of the block unit (rules R84, R86, R87): one decryption iteration undoes one encryption iteration and the
other way round, the sub-keys never change, and a block of 8 bytes is its two words.
-/

namespace Sys2Proof.Machine

@[simp] theorem blkStore_length (b : BlockState) : (blkStore b).length = 8 := rfl

/-- One iteration of `BlkDec` undoes one of `BlkEnc`. -/
theorem blkDecStep_blkEncStep (b : BlockState) : blkDecStep (blkEncStep b) = b := by
  simp [blkDecStep, blkEncStep]

/-- One iteration of `BlkEnc` undoes one of `BlkDec`. -/
theorem blkEncStep_blkDecStep (b : BlockState) : blkEncStep (blkDecStep b) = b := by
  simp [blkDecStep, blkEncStep]

@[simp] theorem blkEncStep_sk (b : BlockState) : (blkEncStep b).sk = b.sk := rfl
@[simp] theorem blkEncStep_sum (b : BlockState) : (blkEncStep b).sum = b.sum + Config.bcDelta := rfl
@[simp] theorem blkDecStep_sk (b : BlockState) : (blkDecStep b).sk = b.sk := rfl
@[simp] theorem blkDecStep_sum (b : BlockState) : (blkDecStep b).sum = b.sum - Config.bcDelta := rfl
@[simp] theorem blkLoad_sum (key block : List Byte) (x : Word) : (blkLoad key block x).sum = x := rfl

/-- The word sub-keys stay through the iterations. -/
@[simp] theorem blkEncStep_iterate_sk (n : Nat) (b : BlockState) : (blkEncStep^[n] b).sk = b.sk := by
  induction n generalizing b with
  | zero => rfl
  | succ n ih => simp [ih]

@[simp] theorem blkDecStep_iterate_sk (n : Nat) (b : BlockState) : (blkDecStep^[n] b).sk = b.sk := by
  induction n generalizing b with
  | zero => rfl
  | succ n ih => simp [ih]

/-- A stored block, loaded again with the same key and `sum`, is the state it was stored from. -/
theorem blkLoad_blkStore (key block : List Byte) (b : BlockState) (x : Word) (h : b.sk = (blkLoad key block x).sk) :
    blkLoad key (blkStore b) b.sum = b := by
  obtain ⟨v0, v1, sum, sk⟩ := b
  have h1 : le32At (bytes32 v0 ++ bytes32 v1) 4 = v1 := by
    have := le32At_bytes32_add v0 (bytes32 v1) 0
    rw [this, ← List.append_nil (bytes32 v1), le32At_bytes32_zero]
  simp only at h
  subst h
  simp [blkLoad, blkStore, h1]

/-- A block of 8 bytes, loaded and stored, is itself. -/
theorem blkStore_blkLoad (key block : List Byte) (x : Word) (h : block.length = 8) : blkStore (blkLoad key block x) = block := by
  match block, h with
  | [b0, b1, b2, b3, b4, b5, b6, b7], _ => simp [blkStore, blkLoad, le32At, bytes32_leWord]

end Sys2Proof.Machine
end

