-- ==== Sys2Proof/Laws/State.lean ====
section
/-!
SUPPORT. One lemma per field per update of State: what each update writes and what it leaves, all true by `rfl`, so that
no proof unfolds a record update.
-/

namespace Sys2Proof.Machine

/-! The reset state (rule R125). -/

@[simp] theorem State.reset_status : State.reset.status = ⟨false, false, false, false⟩ := rfl
@[simp] theorem State.reset_errcode : State.reset.errcode = 0 := rfl
@[simp] theorem State.reset_errinfo : State.reset.errinfo = 0 := rfl
@[simp] theorem State.reset_ien : State.reset.ien = 0 := rfl
@[simp] theorem State.reset_len : State.reset.len = 0 := rfl
@[simp] theorem State.reset_pwlen : State.reset.pwlen = 0 := rfl
@[simp] theorem State.reset_klen : State.reset.klen = 0 := rfl
@[simp] theorem State.reset_padcount : State.reset.padcount = 0 := rfl
@[simp] theorem State.reset_chunk : State.reset.chunk = 0 := rfl
@[simp] theorem State.reset_digest : State.reset.digest = Vector.replicate 16 0 := rfl
@[simp] theorem State.reset_salt : State.reset.salt = Vector.replicate 128 0 := rfl
@[simp] theorem State.reset_key : State.reset.key = Vector.replicate 256 0 := rfl
@[simp] theorem State.reset_kmat : State.reset.kmat = Vector.replicate 64 0 := rfl
@[simp] theorem State.reset_work : State.reset.work = Work.zero := rfl
@[simp] theorem State.reset_din : State.reset.din = [] := rfl
@[simp] theorem State.reset_dout : State.reset.dout = [] := rfl
@[simp] theorem State.reset_rndDrawn : State.reset.rndDrawn = 0 := rfl
@[simp] theorem State.reset_pending : State.reset.pending = [] := rfl
@[simp] theorem State.reset_replies : State.reset.replies = [] := rfl

/-! `DinPop` removes from DIN. -/

@[simp] theorem State.dinPop_status (s : State) (n : Nat) : (s.dinPop n).status = s.status := rfl
@[simp] theorem State.dinPop_errcode (s : State) (n : Nat) : (s.dinPop n).errcode = s.errcode := rfl
@[simp] theorem State.dinPop_errinfo (s : State) (n : Nat) : (s.dinPop n).errinfo = s.errinfo := rfl
@[simp] theorem State.dinPop_ien (s : State) (n : Nat) : (s.dinPop n).ien = s.ien := rfl
@[simp] theorem State.dinPop_len (s : State) (n : Nat) : (s.dinPop n).len = s.len := rfl
@[simp] theorem State.dinPop_pwlen (s : State) (n : Nat) : (s.dinPop n).pwlen = s.pwlen := rfl
@[simp] theorem State.dinPop_klen (s : State) (n : Nat) : (s.dinPop n).klen = s.klen := rfl
@[simp] theorem State.dinPop_padcount (s : State) (n : Nat) : (s.dinPop n).padcount = s.padcount := rfl
@[simp] theorem State.dinPop_chunk (s : State) (n : Nat) : (s.dinPop n).chunk = s.chunk := rfl
@[simp] theorem State.dinPop_digest (s : State) (n : Nat) : (s.dinPop n).digest = s.digest := rfl
@[simp] theorem State.dinPop_salt (s : State) (n : Nat) : (s.dinPop n).salt = s.salt := rfl
@[simp] theorem State.dinPop_key (s : State) (n : Nat) : (s.dinPop n).key = s.key := rfl
@[simp] theorem State.dinPop_kmat (s : State) (n : Nat) : (s.dinPop n).kmat = s.kmat := rfl
@[simp] theorem State.dinPop_work (s : State) (n : Nat) : (s.dinPop n).work = s.work := rfl
@[simp] theorem State.dinPop_din (s : State) (n : Nat) : (s.dinPop n).din = s.din.drop n := rfl
@[simp] theorem State.dinPop_dout (s : State) (n : Nat) : (s.dinPop n).dout = s.dout := rfl
@[simp] theorem State.dinPop_rndDrawn (s : State) (n : Nat) : (s.dinPop n).rndDrawn = s.rndDrawn := rfl
@[simp] theorem State.dinPop_pending (s : State) (n : Nat) : (s.dinPop n).pending = s.pending := rfl
@[simp] theorem State.dinPop_replies (s : State) (n : Nat) : (s.dinPop n).replies = s.replies := rfl

/-! `DoutPush` appends to DOUT. -/

@[simp] theorem State.doutPush_status (s : State) (a : List Byte) : (s.doutPush a).status = s.status := rfl
@[simp] theorem State.doutPush_errcode (s : State) (a : List Byte) : (s.doutPush a).errcode = s.errcode := rfl
@[simp] theorem State.doutPush_errinfo (s : State) (a : List Byte) : (s.doutPush a).errinfo = s.errinfo := rfl
@[simp] theorem State.doutPush_ien (s : State) (a : List Byte) : (s.doutPush a).ien = s.ien := rfl
@[simp] theorem State.doutPush_len (s : State) (a : List Byte) : (s.doutPush a).len = s.len := rfl
@[simp] theorem State.doutPush_pwlen (s : State) (a : List Byte) : (s.doutPush a).pwlen = s.pwlen := rfl
@[simp] theorem State.doutPush_klen (s : State) (a : List Byte) : (s.doutPush a).klen = s.klen := rfl
@[simp] theorem State.doutPush_padcount (s : State) (a : List Byte) : (s.doutPush a).padcount = s.padcount := rfl
@[simp] theorem State.doutPush_chunk (s : State) (a : List Byte) : (s.doutPush a).chunk = s.chunk := rfl
@[simp] theorem State.doutPush_digest (s : State) (a : List Byte) : (s.doutPush a).digest = s.digest := rfl
@[simp] theorem State.doutPush_salt (s : State) (a : List Byte) : (s.doutPush a).salt = s.salt := rfl
@[simp] theorem State.doutPush_key (s : State) (a : List Byte) : (s.doutPush a).key = s.key := rfl
@[simp] theorem State.doutPush_kmat (s : State) (a : List Byte) : (s.doutPush a).kmat = s.kmat := rfl
@[simp] theorem State.doutPush_work (s : State) (a : List Byte) : (s.doutPush a).work = s.work := rfl
@[simp] theorem State.doutPush_din (s : State) (a : List Byte) : (s.doutPush a).din = s.din := rfl
@[simp] theorem State.doutPush_dout (s : State) (a : List Byte) : (s.doutPush a).dout = s.dout ++ a := rfl
@[simp] theorem State.doutPush_rndDrawn (s : State) (a : List Byte) : (s.doutPush a).rndDrawn = s.rndDrawn := rfl
@[simp] theorem State.doutPush_pending (s : State) (a : List Byte) : (s.doutPush a).pending = s.pending := rfl
@[simp] theorem State.doutPush_replies (s : State) (a : List Byte) : (s.doutPush a).replies = s.replies := rfl

/-! `RndDraw` advances the draw counter. -/

@[simp] theorem State.rndDraw_status (s : State) (n : Nat) : (s.rndDraw n).status = s.status := rfl
@[simp] theorem State.rndDraw_errcode (s : State) (n : Nat) : (s.rndDraw n).errcode = s.errcode := rfl
@[simp] theorem State.rndDraw_errinfo (s : State) (n : Nat) : (s.rndDraw n).errinfo = s.errinfo := rfl
@[simp] theorem State.rndDraw_ien (s : State) (n : Nat) : (s.rndDraw n).ien = s.ien := rfl
@[simp] theorem State.rndDraw_len (s : State) (n : Nat) : (s.rndDraw n).len = s.len := rfl
@[simp] theorem State.rndDraw_pwlen (s : State) (n : Nat) : (s.rndDraw n).pwlen = s.pwlen := rfl
@[simp] theorem State.rndDraw_klen (s : State) (n : Nat) : (s.rndDraw n).klen = s.klen := rfl
@[simp] theorem State.rndDraw_padcount (s : State) (n : Nat) : (s.rndDraw n).padcount = s.padcount := rfl
@[simp] theorem State.rndDraw_chunk (s : State) (n : Nat) : (s.rndDraw n).chunk = s.chunk := rfl
@[simp] theorem State.rndDraw_digest (s : State) (n : Nat) : (s.rndDraw n).digest = s.digest := rfl
@[simp] theorem State.rndDraw_salt (s : State) (n : Nat) : (s.rndDraw n).salt = s.salt := rfl
@[simp] theorem State.rndDraw_key (s : State) (n : Nat) : (s.rndDraw n).key = s.key := rfl
@[simp] theorem State.rndDraw_kmat (s : State) (n : Nat) : (s.rndDraw n).kmat = s.kmat := rfl
@[simp] theorem State.rndDraw_work (s : State) (n : Nat) : (s.rndDraw n).work = s.work := rfl
@[simp] theorem State.rndDraw_din (s : State) (n : Nat) : (s.rndDraw n).din = s.din := rfl
@[simp] theorem State.rndDraw_dout (s : State) (n : Nat) : (s.rndDraw n).dout = s.dout := rfl
@[simp] theorem State.rndDraw_rndDrawn (s : State) (n : Nat) : (s.rndDraw n).rndDrawn = s.rndDrawn + n := rfl
@[simp] theorem State.rndDraw_pending (s : State) (n : Nat) : (s.rndDraw n).pending = s.pending := rfl
@[simp] theorem State.rndDraw_replies (s : State) (n : Nat) : (s.rndDraw n).replies = s.replies := rfl

/-! KMAT destroyed. -/

@[simp] theorem State.wipeKmat_status (s : State) : s.wipeKmat.status = s.status := rfl
@[simp] theorem State.wipeKmat_errcode (s : State) : s.wipeKmat.errcode = s.errcode := rfl
@[simp] theorem State.wipeKmat_errinfo (s : State) : s.wipeKmat.errinfo = s.errinfo := rfl
@[simp] theorem State.wipeKmat_ien (s : State) : s.wipeKmat.ien = s.ien := rfl
@[simp] theorem State.wipeKmat_len (s : State) : s.wipeKmat.len = s.len := rfl
@[simp] theorem State.wipeKmat_pwlen (s : State) : s.wipeKmat.pwlen = s.pwlen := rfl
@[simp] theorem State.wipeKmat_klen (s : State) : s.wipeKmat.klen = s.klen := rfl
@[simp] theorem State.wipeKmat_padcount (s : State) : s.wipeKmat.padcount = s.padcount := rfl
@[simp] theorem State.wipeKmat_chunk (s : State) : s.wipeKmat.chunk = s.chunk := rfl
@[simp] theorem State.wipeKmat_digest (s : State) : s.wipeKmat.digest = s.digest := rfl
@[simp] theorem State.wipeKmat_salt (s : State) : s.wipeKmat.salt = s.salt := rfl
@[simp] theorem State.wipeKmat_key (s : State) : s.wipeKmat.key = s.key := rfl
@[simp] theorem State.wipeKmat_kmat (s : State) : s.wipeKmat.kmat = Vector.replicate 64 0 := rfl
@[simp] theorem State.wipeKmat_work (s : State) : s.wipeKmat.work = s.work := rfl
@[simp] theorem State.wipeKmat_din (s : State) : s.wipeKmat.din = s.din := rfl
@[simp] theorem State.wipeKmat_dout (s : State) : s.wipeKmat.dout = s.dout := rfl
@[simp] theorem State.wipeKmat_rndDrawn (s : State) : s.wipeKmat.rndDrawn = s.rndDrawn := rfl
@[simp] theorem State.wipeKmat_pending (s : State) : s.wipeKmat.pending = s.pending := rfl
@[simp] theorem State.wipeKmat_replies (s : State) : s.wipeKmat.replies = s.replies := rfl

/-! Working state zeroed. -/

@[simp] theorem State.wipeWork_status (s : State) : s.wipeWork.status = s.status := rfl
@[simp] theorem State.wipeWork_errcode (s : State) : s.wipeWork.errcode = s.errcode := rfl
@[simp] theorem State.wipeWork_errinfo (s : State) : s.wipeWork.errinfo = s.errinfo := rfl
@[simp] theorem State.wipeWork_ien (s : State) : s.wipeWork.ien = s.ien := rfl
@[simp] theorem State.wipeWork_len (s : State) : s.wipeWork.len = s.len := rfl
@[simp] theorem State.wipeWork_pwlen (s : State) : s.wipeWork.pwlen = s.pwlen := rfl
@[simp] theorem State.wipeWork_klen (s : State) : s.wipeWork.klen = s.klen := rfl
@[simp] theorem State.wipeWork_padcount (s : State) : s.wipeWork.padcount = s.padcount := rfl
@[simp] theorem State.wipeWork_chunk (s : State) : s.wipeWork.chunk = s.chunk := rfl
@[simp] theorem State.wipeWork_digest (s : State) : s.wipeWork.digest = s.digest := rfl
@[simp] theorem State.wipeWork_salt (s : State) : s.wipeWork.salt = s.salt := rfl
@[simp] theorem State.wipeWork_key (s : State) : s.wipeWork.key = s.key := rfl
@[simp] theorem State.wipeWork_kmat (s : State) : s.wipeWork.kmat = s.kmat := rfl
@[simp] theorem State.wipeWork_work (s : State) : s.wipeWork.work = Work.zero := rfl
@[simp] theorem State.wipeWork_din (s : State) : s.wipeWork.din = s.din := rfl
@[simp] theorem State.wipeWork_dout (s : State) : s.wipeWork.dout = s.dout := rfl
@[simp] theorem State.wipeWork_rndDrawn (s : State) : s.wipeWork.rndDrawn = s.rndDrawn := rfl
@[simp] theorem State.wipeWork_pending (s : State) : s.wipeWork.pending = s.pending := rfl
@[simp] theorem State.wipeWork_replies (s : State) : s.wipeWork.replies = s.replies := rfl

/-! Acceptance. -/

@[simp] theorem accept_status (s : State) : (accept s).status = flagsAccepted s.status := rfl
@[simp] theorem accept_errcode (s : State) : (accept s).errcode = s.errcode := rfl
@[simp] theorem accept_errinfo (s : State) : (accept s).errinfo = s.errinfo := rfl
@[simp] theorem accept_ien (s : State) : (accept s).ien = s.ien := rfl
@[simp] theorem accept_len (s : State) : (accept s).len = s.len := rfl
@[simp] theorem accept_pwlen (s : State) : (accept s).pwlen = s.pwlen := rfl
@[simp] theorem accept_klen (s : State) : (accept s).klen = s.klen := rfl
@[simp] theorem accept_padcount (s : State) : (accept s).padcount = s.padcount := rfl
@[simp] theorem accept_chunk (s : State) : (accept s).chunk = s.chunk := rfl
@[simp] theorem accept_digest (s : State) : (accept s).digest = s.digest := rfl
@[simp] theorem accept_salt (s : State) : (accept s).salt = s.salt := rfl
@[simp] theorem accept_key (s : State) : (accept s).key = s.key := rfl
@[simp] theorem accept_kmat (s : State) : (accept s).kmat = s.kmat := rfl
@[simp] theorem accept_work (s : State) : (accept s).work = s.work := rfl
@[simp] theorem accept_din (s : State) : (accept s).din = s.din := rfl
@[simp] theorem accept_dout (s : State) : (accept s).dout = s.dout := rfl
@[simp] theorem accept_rndDrawn (s : State) : (accept s).rndDrawn = s.rndDrawn := rfl
@[simp] theorem accept_pending (s : State) : (accept s).pending = s.pending := rfl
@[simp] theorem accept_replies (s : State) : (accept s).replies = s.replies := rfl

/-! Completion. -/

@[simp] theorem complete_status (s : State) : (complete s).status = flagsCompleted s.status := rfl
@[simp] theorem complete_errcode (s : State) : (complete s).errcode = s.errcode := rfl
@[simp] theorem complete_errinfo (s : State) : (complete s).errinfo = s.errinfo := rfl
@[simp] theorem complete_ien (s : State) : (complete s).ien = s.ien := rfl
@[simp] theorem complete_len (s : State) : (complete s).len = s.len := rfl
@[simp] theorem complete_pwlen (s : State) : (complete s).pwlen = s.pwlen := rfl
@[simp] theorem complete_klen (s : State) : (complete s).klen = s.klen := rfl
@[simp] theorem complete_padcount (s : State) : (complete s).padcount = s.padcount := rfl
@[simp] theorem complete_chunk (s : State) : (complete s).chunk = s.chunk := rfl
@[simp] theorem complete_digest (s : State) : (complete s).digest = s.digest := rfl
@[simp] theorem complete_salt (s : State) : (complete s).salt = s.salt := rfl
@[simp] theorem complete_key (s : State) : (complete s).key = s.key := rfl
@[simp] theorem complete_kmat (s : State) : (complete s).kmat = s.kmat := rfl
@[simp] theorem complete_work (s : State) : (complete s).work = Work.zero := rfl
@[simp] theorem complete_din (s : State) : (complete s).din = s.din := rfl
@[simp] theorem complete_dout (s : State) : (complete s).dout = s.dout := rfl
@[simp] theorem complete_rndDrawn (s : State) : (complete s).rndDrawn = s.rndDrawn := rfl
@[simp] theorem complete_pending (s : State) : (complete s).pending = s.pending := rfl
@[simp] theorem complete_replies (s : State) : (complete s).replies = s.replies := rfl

/-! Error entry (rule R117). -/

@[simp] theorem raise_status (k : ErrKind) (w : Word) (s : State) : (raise k w s).status = flagsRaised s.status := rfl
@[simp] theorem raise_errcode (k : ErrKind) (w : Word) (s : State) : (raise k w s).errcode = errCode k := rfl
@[simp] theorem raise_errinfo (k : ErrKind) (w : Word) (s : State) : (raise k w s).errinfo = w := rfl
@[simp] theorem raise_ien (k : ErrKind) (w : Word) (s : State) : (raise k w s).ien = s.ien := rfl
@[simp] theorem raise_len (k : ErrKind) (w : Word) (s : State) : (raise k w s).len = s.len := rfl
@[simp] theorem raise_pwlen (k : ErrKind) (w : Word) (s : State) : (raise k w s).pwlen = s.pwlen := rfl
@[simp] theorem raise_klen (k : ErrKind) (w : Word) (s : State) : (raise k w s).klen = s.klen := rfl
@[simp] theorem raise_padcount (k : ErrKind) (w : Word) (s : State) : (raise k w s).padcount = s.padcount := rfl
@[simp] theorem raise_chunk (k : ErrKind) (w : Word) (s : State) : (raise k w s).chunk = s.chunk := rfl
@[simp] theorem raise_digest (k : ErrKind) (w : Word) (s : State) : (raise k w s).digest = s.digest := rfl
@[simp] theorem raise_salt (k : ErrKind) (w : Word) (s : State) : (raise k w s).salt = s.salt := rfl
@[simp] theorem raise_key (k : ErrKind) (w : Word) (s : State) : (raise k w s).key = s.key := rfl
@[simp] theorem raise_kmat (k : ErrKind) (w : Word) (s : State) : (raise k w s).kmat = Vector.replicate 64 0 := rfl
@[simp] theorem raise_work (k : ErrKind) (w : Word) (s : State) : (raise k w s).work = Work.zero := rfl
@[simp] theorem raise_din (k : ErrKind) (w : Word) (s : State) : (raise k w s).din = s.din := rfl
@[simp] theorem raise_dout (k : ErrKind) (w : Word) (s : State) : (raise k w s).dout = s.dout := rfl
@[simp] theorem raise_rndDrawn (k : ErrKind) (w : Word) (s : State) : (raise k w s).rndDrawn = s.rndDrawn := rfl
@[simp] theorem raise_pending (k : ErrKind) (w : Word) (s : State) : (raise k w s).pending = s.pending := rfl
@[simp] theorem raise_replies (k : ErrKind) (w : Word) (s : State) : (raise k w s).replies = s.replies := rfl

/-! The way out of the error state (rule R110). -/

@[simp] theorem leaveErrorState_status (s : State) : (leaveErrorState s).status = ⟨false, false, false, false⟩ := rfl
@[simp] theorem leaveErrorState_errcode (s : State) : (leaveErrorState s).errcode = 0 := rfl
@[simp] theorem leaveErrorState_errinfo (s : State) : (leaveErrorState s).errinfo = 0 := rfl
@[simp] theorem leaveErrorState_ien (s : State) : (leaveErrorState s).ien = s.ien := rfl
@[simp] theorem leaveErrorState_len (s : State) : (leaveErrorState s).len = 0 := rfl
@[simp] theorem leaveErrorState_pwlen (s : State) : (leaveErrorState s).pwlen = 0 := rfl
@[simp] theorem leaveErrorState_klen (s : State) : (leaveErrorState s).klen = 0 := rfl
@[simp] theorem leaveErrorState_padcount (s : State) : (leaveErrorState s).padcount = 0 := rfl
@[simp] theorem leaveErrorState_chunk (s : State) : (leaveErrorState s).chunk = 0 := rfl
@[simp] theorem leaveErrorState_digest (s : State) : (leaveErrorState s).digest = Vector.replicate 16 0 := rfl
@[simp] theorem leaveErrorState_salt (s : State) : (leaveErrorState s).salt = Vector.replicate 128 0 := rfl
@[simp] theorem leaveErrorState_key (s : State) : (leaveErrorState s).key = Vector.replicate 256 0 := rfl
@[simp] theorem leaveErrorState_kmat (s : State) : (leaveErrorState s).kmat = Vector.replicate 64 0 := rfl
@[simp] theorem leaveErrorState_work (s : State) : (leaveErrorState s).work = Work.zero := rfl
@[simp] theorem leaveErrorState_din (s : State) : (leaveErrorState s).din = [] := rfl
@[simp] theorem leaveErrorState_dout (s : State) : (leaveErrorState s).dout = [] := rfl
@[simp] theorem leaveErrorState_rndDrawn (s : State) : (leaveErrorState s).rndDrawn = s.rndDrawn := rfl
@[simp] theorem leaveErrorState_pending (s : State) : (leaveErrorState s).pending = s.pending := rfl
@[simp] theorem leaveErrorState_replies (s : State) : (leaveErrorState s).replies = s.replies := rfl

/-! Hardware reset (rule R125). -/

@[simp] theorem hardReset_status (s : State) : (hardReset s).status = ⟨false, false, false, false⟩ := rfl
@[simp] theorem hardReset_errcode (s : State) : (hardReset s).errcode = 0 := rfl
@[simp] theorem hardReset_errinfo (s : State) : (hardReset s).errinfo = 0 := rfl
@[simp] theorem hardReset_ien (s : State) : (hardReset s).ien = 0 := rfl
@[simp] theorem hardReset_len (s : State) : (hardReset s).len = 0 := rfl
@[simp] theorem hardReset_pwlen (s : State) : (hardReset s).pwlen = 0 := rfl
@[simp] theorem hardReset_klen (s : State) : (hardReset s).klen = 0 := rfl
@[simp] theorem hardReset_padcount (s : State) : (hardReset s).padcount = 0 := rfl
@[simp] theorem hardReset_chunk (s : State) : (hardReset s).chunk = 0 := rfl
@[simp] theorem hardReset_digest (s : State) : (hardReset s).digest = Vector.replicate 16 0 := rfl
@[simp] theorem hardReset_salt (s : State) : (hardReset s).salt = Vector.replicate 128 0 := rfl
@[simp] theorem hardReset_key (s : State) : (hardReset s).key = Vector.replicate 256 0 := rfl
@[simp] theorem hardReset_kmat (s : State) : (hardReset s).kmat = Vector.replicate 64 0 := rfl
@[simp] theorem hardReset_work (s : State) : (hardReset s).work = Work.zero := rfl
@[simp] theorem hardReset_din (s : State) : (hardReset s).din = [] := rfl
@[simp] theorem hardReset_dout (s : State) : (hardReset s).dout = [] := rfl
@[simp] theorem hardReset_rndDrawn (s : State) : (hardReset s).rndDrawn = s.rndDrawn := rfl
@[simp] theorem hardReset_pending (s : State) : (hardReset s).pending = s.pending := rfl
@[simp] theorem hardReset_replies (s : State) : (hardReset s).replies = s.replies := rfl

/-! A reply to the host. -/

@[simp] theorem State.reply_status (s : State) (a : HostReply) : (s.reply a).status = s.status := rfl
@[simp] theorem State.reply_errcode (s : State) (a : HostReply) : (s.reply a).errcode = s.errcode := rfl
@[simp] theorem State.reply_errinfo (s : State) (a : HostReply) : (s.reply a).errinfo = s.errinfo := rfl
@[simp] theorem State.reply_ien (s : State) (a : HostReply) : (s.reply a).ien = s.ien := rfl
@[simp] theorem State.reply_len (s : State) (a : HostReply) : (s.reply a).len = s.len := rfl
@[simp] theorem State.reply_pwlen (s : State) (a : HostReply) : (s.reply a).pwlen = s.pwlen := rfl
@[simp] theorem State.reply_klen (s : State) (a : HostReply) : (s.reply a).klen = s.klen := rfl
@[simp] theorem State.reply_padcount (s : State) (a : HostReply) : (s.reply a).padcount = s.padcount := rfl
@[simp] theorem State.reply_chunk (s : State) (a : HostReply) : (s.reply a).chunk = s.chunk := rfl
@[simp] theorem State.reply_digest (s : State) (a : HostReply) : (s.reply a).digest = s.digest := rfl
@[simp] theorem State.reply_salt (s : State) (a : HostReply) : (s.reply a).salt = s.salt := rfl
@[simp] theorem State.reply_key (s : State) (a : HostReply) : (s.reply a).key = s.key := rfl
@[simp] theorem State.reply_kmat (s : State) (a : HostReply) : (s.reply a).kmat = s.kmat := rfl
@[simp] theorem State.reply_work (s : State) (a : HostReply) : (s.reply a).work = s.work := rfl
@[simp] theorem State.reply_din (s : State) (a : HostReply) : (s.reply a).din = s.din := rfl
@[simp] theorem State.reply_dout (s : State) (a : HostReply) : (s.reply a).dout = s.dout := rfl
@[simp] theorem State.reply_rndDrawn (s : State) (a : HostReply) : (s.reply a).rndDrawn = s.rndDrawn := rfl
@[simp] theorem State.reply_pending (s : State) (a : HostReply) : (s.reply a).pending = s.pending := rfl
@[simp] theorem State.reply_replies (s : State) (a : HostReply) : (s.reply a).replies = s.replies ++ [a] := rfl

/-! A push to DIN. -/

@[simp] theorem hostPush_status (a : List Byte) (s : State) : (hostPush a s).status = s.status := rfl
@[simp] theorem hostPush_errcode (a : List Byte) (s : State) : (hostPush a s).errcode = s.errcode := rfl
@[simp] theorem hostPush_errinfo (a : List Byte) (s : State) : (hostPush a s).errinfo = s.errinfo := rfl
@[simp] theorem hostPush_ien (a : List Byte) (s : State) : (hostPush a s).ien = s.ien := rfl
@[simp] theorem hostPush_len (a : List Byte) (s : State) : (hostPush a s).len = s.len := rfl
@[simp] theorem hostPush_pwlen (a : List Byte) (s : State) : (hostPush a s).pwlen = s.pwlen := rfl
@[simp] theorem hostPush_klen (a : List Byte) (s : State) : (hostPush a s).klen = s.klen := rfl
@[simp] theorem hostPush_padcount (a : List Byte) (s : State) : (hostPush a s).padcount = s.padcount := rfl
@[simp] theorem hostPush_chunk (a : List Byte) (s : State) : (hostPush a s).chunk = s.chunk := rfl
@[simp] theorem hostPush_digest (a : List Byte) (s : State) : (hostPush a s).digest = s.digest := rfl
@[simp] theorem hostPush_salt (a : List Byte) (s : State) : (hostPush a s).salt = s.salt := rfl
@[simp] theorem hostPush_key (a : List Byte) (s : State) : (hostPush a s).key = s.key := rfl
@[simp] theorem hostPush_kmat (a : List Byte) (s : State) : (hostPush a s).kmat = s.kmat := rfl
@[simp] theorem hostPush_work (a : List Byte) (s : State) : (hostPush a s).work = s.work := rfl
@[simp] theorem hostPush_din (a : List Byte) (s : State) : (hostPush a s).din = s.din ++ a := rfl
@[simp] theorem hostPush_dout (a : List Byte) (s : State) : (hostPush a s).dout = s.dout := rfl
@[simp] theorem hostPush_rndDrawn (a : List Byte) (s : State) : (hostPush a s).rndDrawn = s.rndDrawn := rfl
@[simp] theorem hostPush_pending (a : List Byte) (s : State) : (hostPush a s).pending = s.pending := rfl
@[simp] theorem hostPush_replies (a : List Byte) (s : State) : (hostPush a s).replies = s.replies := rfl

/-! The salt drawn from RND (rule R97). -/

@[simp] theorem drawSalt_status (s : State) : (drawSalt s).status = s.status := rfl
@[simp] theorem drawSalt_errcode (s : State) : (drawSalt s).errcode = s.errcode := rfl
@[simp] theorem drawSalt_errinfo (s : State) : (drawSalt s).errinfo = s.errinfo := rfl
@[simp] theorem drawSalt_ien (s : State) : (drawSalt s).ien = s.ien := rfl
@[simp] theorem drawSalt_len (s : State) : (drawSalt s).len = s.len := rfl
@[simp] theorem drawSalt_pwlen (s : State) : (drawSalt s).pwlen = s.pwlen := rfl
@[simp] theorem drawSalt_klen (s : State) : (drawSalt s).klen = s.klen := rfl
@[simp] theorem drawSalt_padcount (s : State) : (drawSalt s).padcount = s.padcount := rfl
@[simp] theorem drawSalt_chunk (s : State) : (drawSalt s).chunk = s.chunk := rfl
@[simp] theorem drawSalt_digest (s : State) : (drawSalt s).digest = s.digest := rfl
@[simp] theorem drawSalt_salt (s : State) : (drawSalt s).salt = fileOfBytes 128 (s.rndHead Config.saltBytes) := rfl
@[simp] theorem drawSalt_key (s : State) : (drawSalt s).key = s.key := rfl
@[simp] theorem drawSalt_kmat (s : State) : (drawSalt s).kmat = s.kmat := rfl
@[simp] theorem drawSalt_work (s : State) : (drawSalt s).work = s.work := rfl
@[simp] theorem drawSalt_din (s : State) : (drawSalt s).din = s.din := rfl
@[simp] theorem drawSalt_dout (s : State) : (drawSalt s).dout = s.dout := rfl
@[simp] theorem drawSalt_rndDrawn (s : State) : (drawSalt s).rndDrawn = s.rndDrawn + Config.saltBytes := rfl
@[simp] theorem drawSalt_pending (s : State) : (drawSalt s).pending = s.pending := rfl
@[simp] theorem drawSalt_replies (s : State) : (drawSalt s).replies = s.replies := rfl

/-! The header to DOUT (rule R99). -/

@[simp] theorem putHeader_status (s : State) : (putHeader s).status = s.status := rfl
@[simp] theorem putHeader_errcode (s : State) : (putHeader s).errcode = s.errcode := rfl
@[simp] theorem putHeader_errinfo (s : State) : (putHeader s).errinfo = s.errinfo := rfl
@[simp] theorem putHeader_ien (s : State) : (putHeader s).ien = s.ien := rfl
@[simp] theorem putHeader_len (s : State) : (putHeader s).len = s.len := rfl
@[simp] theorem putHeader_pwlen (s : State) : (putHeader s).pwlen = s.pwlen := rfl
@[simp] theorem putHeader_klen (s : State) : (putHeader s).klen = s.klen := rfl
@[simp] theorem putHeader_padcount (s : State) : (putHeader s).padcount = s.padcount := rfl
@[simp] theorem putHeader_chunk (s : State) : (putHeader s).chunk = s.chunk := rfl
@[simp] theorem putHeader_digest (s : State) : (putHeader s).digest = s.digest := rfl
@[simp] theorem putHeader_salt (s : State) : (putHeader s).salt = s.salt := rfl
@[simp] theorem putHeader_key (s : State) : (putHeader s).key = s.key := rfl
@[simp] theorem putHeader_kmat (s : State) : (putHeader s).kmat = s.kmat := rfl
@[simp] theorem putHeader_work (s : State) : (putHeader s).work = s.work := rfl
@[simp] theorem putHeader_din (s : State) : (putHeader s).din = s.din := rfl
@[simp] theorem putHeader_dout (s : State) : (putHeader s).dout = s.dout ++ header s.padcount s.salt.toList := rfl
@[simp] theorem putHeader_rndDrawn (s : State) : (putHeader s).rndDrawn = s.rndDrawn := rfl
@[simp] theorem putHeader_pending (s : State) : (putHeader s).pending = s.pending := rfl
@[simp] theorem putHeader_replies (s : State) : (putHeader s).replies = s.replies := rfl

/-! The header from DIN (rule R100). -/

@[simp] theorem getHeader_status (s : State) : (getHeader s).status = s.status := rfl
@[simp] theorem getHeader_errcode (s : State) : (getHeader s).errcode = s.errcode := rfl
@[simp] theorem getHeader_errinfo (s : State) : (getHeader s).errinfo = s.errinfo := rfl
@[simp] theorem getHeader_ien (s : State) : (getHeader s).ien = s.ien := rfl
@[simp] theorem getHeader_len (s : State) : (getHeader s).len = s.len := rfl
@[simp] theorem getHeader_pwlen (s : State) : (getHeader s).pwlen = s.pwlen := rfl
@[simp] theorem getHeader_klen (s : State) : (getHeader s).klen = s.klen := rfl
@[simp] theorem getHeader_padcount (s : State) : (getHeader s).padcount = s.dinPeek 4 := rfl
@[simp] theorem getHeader_chunk (s : State) : (getHeader s).chunk = s.chunk := rfl
@[simp] theorem getHeader_digest (s : State) : (getHeader s).digest = s.digest := rfl
@[simp] theorem getHeader_salt (s : State) : (getHeader s).salt = fileOfBytes 128 (slice s.din 5 128) := rfl
@[simp] theorem getHeader_key (s : State) : (getHeader s).key = s.key := rfl
@[simp] theorem getHeader_kmat (s : State) : (getHeader s).kmat = s.kmat := rfl
@[simp] theorem getHeader_work (s : State) : (getHeader s).work = s.work := rfl
@[simp] theorem getHeader_din (s : State) : (getHeader s).din = s.din.drop Config.headerBytes := rfl
@[simp] theorem getHeader_dout (s : State) : (getHeader s).dout = s.dout := rfl
@[simp] theorem getHeader_rndDrawn (s : State) : (getHeader s).rndDrawn = s.rndDrawn := rfl
@[simp] theorem getHeader_pending (s : State) : (getHeader s).pending = s.pending := rfl
@[simp] theorem getHeader_replies (s : State) : (getHeader s).replies = s.replies := rfl

/-! The end of a file operation. -/

@[simp] theorem endFile_status (s : State) : (endFile s).status = { s.status with kvalid := false } := rfl
@[simp] theorem endFile_errcode (s : State) : (endFile s).errcode = s.errcode := rfl
@[simp] theorem endFile_errinfo (s : State) : (endFile s).errinfo = s.errinfo := rfl
@[simp] theorem endFile_ien (s : State) : (endFile s).ien = s.ien := rfl
@[simp] theorem endFile_len (s : State) : (endFile s).len = s.len := rfl
@[simp] theorem endFile_pwlen (s : State) : (endFile s).pwlen = s.pwlen := rfl
@[simp] theorem endFile_klen (s : State) : (endFile s).klen = s.klen := rfl
@[simp] theorem endFile_padcount (s : State) : (endFile s).padcount = s.padcount := rfl
@[simp] theorem endFile_chunk (s : State) : (endFile s).chunk = s.chunk := rfl
@[simp] theorem endFile_digest (s : State) : (endFile s).digest = s.digest := rfl
@[simp] theorem endFile_salt (s : State) : (endFile s).salt = s.salt := rfl
@[simp] theorem endFile_key (s : State) : (endFile s).key = s.key := rfl
@[simp] theorem endFile_kmat (s : State) : (endFile s).kmat = Vector.replicate 64 0 := rfl
@[simp] theorem endFile_work (s : State) : (endFile s).work = s.work := rfl
@[simp] theorem endFile_din (s : State) : (endFile s).din = s.din := rfl
@[simp] theorem endFile_dout (s : State) : (endFile s).dout = s.dout := rfl
@[simp] theorem endFile_rndDrawn (s : State) : (endFile s).rndDrawn = s.rndDrawn := rfl
@[simp] theorem endFile_pending (s : State) : (endFile s).pending = s.pending := rfl
@[simp] theorem endFile_replies (s : State) : (endFile s).replies = s.replies := rfl

/-! Key derivation (rule R98). -/

@[simp] theorem deriveKey_status (pw : List Byte) (s : State) : (deriveKey pw s).status = s.status := rfl
@[simp] theorem deriveKey_errcode (pw : List Byte) (s : State) : (deriveKey pw s).errcode = s.errcode := rfl
@[simp] theorem deriveKey_errinfo (pw : List Byte) (s : State) : (deriveKey pw s).errinfo = s.errinfo := rfl
@[simp] theorem deriveKey_ien (pw : List Byte) (s : State) : (deriveKey pw s).ien = s.ien := rfl
@[simp] theorem deriveKey_len (pw : List Byte) (s : State) : (deriveKey pw s).len = s.len := rfl
@[simp] theorem deriveKey_pwlen (pw : List Byte) (s : State) : (deriveKey pw s).pwlen = s.pwlen := rfl
@[simp] theorem deriveKey_klen (pw : List Byte) (s : State) : (deriveKey pw s).klen = s.klen := rfl
@[simp] theorem deriveKey_padcount (pw : List Byte) (s : State) : (deriveKey pw s).padcount = s.padcount := rfl
@[simp] theorem deriveKey_chunk (pw : List Byte) (s : State) : (deriveKey pw s).chunk = 0 := rfl
@[simp] theorem deriveKey_digest (pw : List Byte) (s : State) : (deriveKey pw s).digest = s.digest := rfl
@[simp] theorem deriveKey_salt (pw : List Byte) (s : State) : (deriveKey pw s).salt = s.salt := rfl
@[simp] theorem deriveKey_key (pw : List Byte) (s : State) : (deriveKey pw s).key = s.key := rfl
@[simp] theorem deriveKey_kmat (pw : List Byte) (s : State) : (deriveKey pw s).kmat = fileOfBytes 64 (derive pw s.padcount s.salt.toList) := rfl
@[simp] theorem deriveKey_work (pw : List Byte) (s : State) : (deriveKey pw s).work = { s.work with hash := hashFinal (deriveMessage pw s.padcount s.salt.toList) } := rfl
@[simp] theorem deriveKey_din (pw : List Byte) (s : State) : (deriveKey pw s).din = s.din := rfl
@[simp] theorem deriveKey_dout (pw : List Byte) (s : State) : (deriveKey pw s).dout = s.dout := rfl
@[simp] theorem deriveKey_rndDrawn (pw : List Byte) (s : State) : (deriveKey pw s).rndDrawn = s.rndDrawn := rfl
@[simp] theorem deriveKey_pending (pw : List Byte) (s : State) : (deriveKey pw s).pending = s.pending := rfl
@[simp] theorem deriveKey_replies (pw : List Byte) (s : State) : (deriveKey pw s).replies = s.replies := rfl

/-! The flags (rules R19, R63, R117). -/

@[simp] theorem flagsAccepted_done (f : Status) : (flagsAccepted f).done = false := rfl
@[simp] theorem flagsAccepted_err (f : Status) : (flagsAccepted f).err = f.err := rfl
@[simp] theorem flagsAccepted_kvalid (f : Status) : (flagsAccepted f).kvalid = f.kvalid := rfl
@[simp] theorem flagsAccepted_busy (f : Status) : (flagsAccepted f).busy = true := rfl
@[simp] theorem flagsCompleted_done (f : Status) : (flagsCompleted f).done = true := rfl
@[simp] theorem flagsCompleted_err (f : Status) : (flagsCompleted f).err = f.err := rfl
@[simp] theorem flagsCompleted_kvalid (f : Status) : (flagsCompleted f).kvalid = f.kvalid := rfl
@[simp] theorem flagsCompleted_busy (f : Status) : (flagsCompleted f).busy = false := rfl
@[simp] theorem flagsRaised_done (f : Status) : (flagsRaised f).done = false := rfl
@[simp] theorem flagsRaised_err (f : Status) : (flagsRaised f).err = true := rfl
@[simp] theorem flagsRaised_kvalid (f : Status) : (flagsRaised f).kvalid = false := rfl
@[simp] theorem flagsRaised_busy (f : Status) : (flagsRaised f).busy = false := rfl

end Sys2Proof.Machine
end

