-- ==== Sys2Proof/Laws/Ops.lean ====
section
/-!
SUPPORT. What the shared operations of a command can do: checks, acceptance, completion and error entry (rules R63, R117,
R119).
-/

namespace Sys2Proof.Machine

@[simp] theorem firstError_nil : firstError [] = none := rfl

@[simp] theorem firstError_cons (b : Bool) (k : ErrKind) (rest : List (Bool × ErrKind)) :
    firstError ((b, k) :: rest) = if b then some k else firstError rest := rfl

/-- Error entry, all of it: `raise` on an accepted command is the state `errorState` describes. -/
theorem raise_accept (k : ErrKind) (w : Word) (s : State) : raise k w (accept s) = errorState (errCode k) w s := rfl

/-- In the error state a command is ignored. -/
theorem issue_ignored {w : Word} {checks : State → List (Bool × ErrKind)} {body : State → State} {s : State}
    (h : s.status.err = true) : issue w checks body s = s := by
  simp [issue, h]

/-- A failing check is reported, and nothing else happens. -/
theorem issue_raised {w : Word} {checks : State → List (Bool × ErrKind)} {body : State → State} {s : State} {k : ErrKind}
    (h : s.status.err = false) (hk : firstError (checks (accept s)) = some k) :
    issue w checks body s = errorState (errCode k) w s := by
  simp [issue, h, runAccepted, hk, raise_accept]

/-- With no failing check the body runs and the command completes. -/
theorem issue_completed {w : Word} {checks : State → List (Bool × ErrKind)} {body : State → State} {s : State}
    (h : s.status.err = false) (hk : firstError (checks (accept s)) = none) :
    issue w checks body s = complete (body (accept s)) := by
  simp [issue, h, runAccepted, hk]

/-- Everything an issued command can do. -/
theorem issue_cases (w : Word) (checks : State → List (Bool × ErrKind)) (body : State → State) (s : State) :
    (s.status.err = true ∧ issue w checks body s = s) ∨
    (s.status.err = false ∧ ∃ k, firstError (checks (accept s)) = some k ∧
      issue w checks body s = errorState (errCode k) w s) ∨
    (s.status.err = false ∧ firstError (checks (accept s)) = none ∧
      issue w checks body s = complete (body (accept s))) := by
  cases he : s.status.err with
  | true => exact .inl ⟨rfl, issue_ignored he⟩
  | false =>
    cases hk : firstError (checks (accept s)) with
    | some k => exact .inr (.inl ⟨rfl, k, rfl, issue_raised he hk⟩)
    | none => exact .inr (.inr ⟨rfl, rfl, issue_completed he hk⟩)

/-- Everything a write of an illegal word can do (rules R63, R114). -/
theorem issueIllegal_eq (w : Word) (s : State) :
    issueIllegal w s = if s.status.err then s else errorState 0x07 w s := rfl

/-- The code of an error is one of rule R112's seven. -/
theorem errCode_range (k : ErrKind) : 1 ≤ (errCode k).toNat ∧ (errCode k).toNat ≤ 7 := by
  cases k <;> decide

end Sys2Proof.Machine
end

