-- ==== Sys2Proof/Laws/Dispatch.lean ====
section
/-!
SUPPORT. `exec` seen through one table: the checks and the body of each command, so that a fact about all commands is a
fact about `issue`, `checksOf` and `bodyOf`, and SOFT_RESET.
-/

namespace Sys2Proof.Machine

/-- The checks each command's meaning is made with. -/
def checksOf (i : Instr) : State → List (Bool × ErrKind) :=
  match i with
  | .nop => fun _ => []
  | .softReset => fun _ => []
  | .hash => hashChecks
  | .strm => strmChecks
  | .blkEnc => blkChecks
  | .blkDec => blkChecks
  | .saltGen => fun _ => []
  | .kdf => kdfChecks
  | .hdrPut => hdrPutChecks
  | .hdrGet => hdrGetChecks
  | .chunkEnc => chunkChecks
  | .chunkDec => chunkChecks
  | .chunkEncLast => chunkEncLastChecks
  | .chunkDecLast => chunkDecLastChecks
  | .fileEnc => fileEncChecks
  | .fileDec => fileDecChecks

/-- The body each command's meaning is made with. -/
def bodyOf (i : Instr) : State → State :=
  match i with
  | .nop => fun s => s
  | .softReset => leaveErrorState
  | .hash => hashBody
  | .strm => strmBody
  | .blkEnc => blkEncBody
  | .blkDec => blkDecBody
  | .saltGen => drawSalt
  | .kdf => kdfBody
  | .hdrPut => putHeader
  | .hdrGet => getHeader
  | .chunkEnc => encryptFullChunk
  | .chunkDec => decryptFullChunk
  | .chunkEncLast => encryptLastChunk
  | .chunkDecLast => decryptLastChunk
  | .fileEnc => fileEncBody
  | .fileDec => fileDecBody

/-- Every command but SOFT_RESET is issued with its checks and its body. -/
theorem exec_eq_issue (i : Instr) (s : State) (h : i ≠ .softReset) :
    exec i s = .next (issue (encode i) (checksOf i) (bodyOf i) s) := by
  cases i <;> first | rfl | exact absurd rfl h

/-- SOFT_RESET, whatever the state. -/
theorem exec_softReset (s : State) : exec .softReset s = .next (complete (leaveErrorState (accept s))) := rfl

/-- No command stops: `exec` always answers a next state. -/
theorem exec_next (i : Instr) (s : State) : ∃ t, exec i s = .next t := by
  by_cases h : i = .softReset
  · exact ⟨_, h ▸ exec_softReset s⟩
  · exact ⟨_, exec_eq_issue i s h⟩

/-- Everything a command but SOFT_RESET can do. -/
theorem exec_cases {i : Instr} {s t : State} (h : i ≠ .softReset) (he : exec i s = .next t) :
    (s.status.err = true ∧ t = s) ∨
    (s.status.err = false ∧ ∃ k, firstError (checksOf i (accept s)) = some k ∧ t = errorState (errCode k) (encode i) s) ∨
    (s.status.err = false ∧ firstError (checksOf i (accept s)) = none ∧ t = complete (bodyOf i (accept s))) := by
  rw [exec_eq_issue i s h] at he
  cases he
  exact issue_cases _ _ _ _

end Sys2Proof.Machine
end

