-- ==== Sys2Proof/Laws/Hash.lean ====
section
/-!
SUPPORT. Laws of the hash unit (rules R67, R68, R71, R74): each word after a step of the round, and the sizes of the padded
message and of the digest.
-/

namespace Sys2Proof.Machine

/-- A low word after `AddRotate`. -/
theorem addRotate_low (S : HashState) (r t i : Nat) (h : i < 16) :
    (addRotate S r t)[i] = (S[i] <<< r) ^^^ (S[i] >>> t) := by
  simp [addRotate, h]

/-- A high word after `AddRotate`. -/
theorem addRotate_high (S : HashState) (r t i : Nat) (h : i < 16) :
    (addRotate S r t)[16 + i] = S[16 + i] + S[i] := by
  simp [addRotate]

/-- A low word after `MixSwap`, `j` being its partner. -/
theorem mixSwap_low (S : HashState) (m1 m2 k j : Fin 32) (h : k.val < 16) (hj : k ^^^ m1 = j) :
    (mixSwap S m1 m2)[k] = S[j] ^^^ S[k.val + 16] := by
  subst hj
  simp [mixSwap, h]

/-- A high word after `MixSwap`, `j` being its partner. -/
theorem mixSwap_high (S : HashState) (m1 m2 k j : Fin 32) (h : ¬k.val < 16) (hj : k ^^^ m2 = j) :
    (mixSwap S m1 m2)[k] = S[j] := by
  subst hj
  simp [mixSwap, h]

/-- The index arithmetic of `MixSwap` is the XOR of numbers below 32. -/
theorem fin32_xor_val : ∀ a b : Fin 32, (a ^^^ b).val = a.val ^^^ b.val := by decide

theorem pad_length (msg : List Byte) : (pad msg).length = 32 * (msg.length / 32) + 32 := by
  simp only [pad, List.length_append, List.length_cons, List.length_nil, List.length_replicate]
  omega

theorem digestString_length (d : Vector Word 16) : (digestString d).length = 64 := by
  simp [digestString, List.length_flatMap]

@[simp] theorem hash_length (msg : List Byte) : (hash msg).length = 64 := digestString_length _

end Sys2Proof.Machine
end

