-- ==== Sys2Proof/Laws/Stream.lean ====
section
/-!
SUPPORT. Laws of the stream unit (rules R78, R80, R81): what a swap does to each entry, and that the loop keeps the length.
-/

namespace Sys2Proof.Machine

/-- Entries after a swap. -/
theorem tableAt_tableSwap (T : Vector Byte 256) (i j k : Byte) :
    tableAt (tableSwap T i j) k = if k = i then tableAt T j else if k = j then tableAt T i else tableAt T k := by
  have e : ∀ a b : Byte, a = b ↔ a.toNat = b.toNat := fun a b => BitVec.toNat_inj.symm
  simp only [tableAt, tableSwap, Vector.getElem_swap, e]

/-- A swap is the exchange of two indices. -/
theorem tableAt_tableSwap_eq_swap (T : Vector Byte 256) (i j k : Byte) :
    tableAt (tableSwap T i j) k = tableAt T (Equiv.swap i j k) := by
  rw [tableAt_tableSwap, Equiv.swap_apply_def]
  split_ifs <;> rfl

@[simp] theorem tableAt_tableIdentity (k : Byte) : tableAt tableIdentity k = k := by
  simp [tableAt, tableIdentity]

@[simp] theorem strmLoop_nil (c : StreamState) : strmLoop c [] = (c, []) := rfl

theorem strmLoop_cons (c : StreamState) (d : Byte) (ds : List Byte) :
    strmLoop c (d :: ds) = ((strmLoop (prgaNext c) ds).1, (d ^^^ prgaByte (prgaNext c)) :: (strmLoop (prgaNext c) ds).2) := rfl

/-- The output is as long as the data. -/
@[simp] theorem strmLoop_length (c : StreamState) (data : List Byte) : (strmLoop c data).2.length = data.length := by
  induction data generalizing c with
  | nil => rfl
  | cons d ds ih => simp [strmLoop_cons, ih]

/-- The state after the data is one keystream step per byte, whatever the bytes are. -/
theorem strmLoop_state (c : StreamState) (data : List Byte) : (strmLoop c data).1 = prgaNext^[data.length] c := by
  induction data generalizing c with
  | nil => rfl
  | cons d ds ih => simp [strmLoop_cons, ih]

@[simp] theorem strmRun_length (key data : List Byte) : (strmRun key data).2.length = data.length := strmLoop_length _ _

end Sys2Proof.Machine
end

