-- ==== Sys2Proof/Laws/Sequencer.lean ====
section
/-!
SUPPORT. Laws of the sequencer: sizes, what one chunk does to the state, and what the loops of FILE_ENC and FILE_DEC do
(rules R95, R96, R105, R106).
-/

namespace Sys2Proof.Machine

theorem padCount_le (L : Nat) : padCount L ≤ 7 := by unfold padCount; omega

theorem padCount_add (L : Nat) : (L + padCount L) / 8 * 8 = L + padCount L := by unfold padCount; omega

@[simp] theorem fileSubKey_length (kmat : Vector Byte 64) (n : DWord) : (fileSubKey kmat n).length = 16 := by
  simp only [fileSubKey, slice_length, Vector.length_toList]
  omega

@[simp] theorem chunkEnc_length (kmat : Vector Byte 64) (n : DWord) (x : List Byte) : (chunkEnc kmat n x).length = 8 := rfl

@[simp] theorem chunkDec_length (kmat : Vector Byte 64) (n : DWord) (c : List Byte) : (chunkDec kmat n c).length = 8 := by
  simp [chunkDec, strm, blkDec]

@[simp] theorem rndHead_length (s : State) (n : Nat) : (s.rndHead n).length = n := by simp [State.rndHead]

@[simp] theorem rndHead_zero (s : State) : s.rndHead 0 = [] := rfl

/-- One encrypted chunk: DOUT gains it, CHUNK advances, and besides the working state nothing else changes. -/
theorem encryptChunk_eq (x : List Byte) (s : State) :
    encryptChunk x s =
      { s with
        work := (encryptChunk x s).work
        dout := s.dout ++ chunkEnc s.kmat s.chunk x
        chunk := s.chunk + 1 } := rfl

/-- One decrypted chunk: DOUT gains its first `keep` bytes, CHUNK advances, and besides the working state nothing else
changes. -/
theorem decryptChunk_eq (c : List Byte) (keep : Nat) (s : State) :
    decryptChunk c keep s =
      { s with
        work := (decryptChunk c keep s).work
        dout := s.dout ++ (chunkDec s.kmat s.chunk c).take keep
        chunk := s.chunk + 1 } := rfl

/-- The slices of a string, each one after the first counted from the rest. -/
theorem slice_drop (a : List Byte) (j k n : Nat) : slice (a.drop j) k n = slice a (j + k) n := by
  simp [slice]

/-- A loop's output, its first turn apart from the others. -/
theorem flatMap_range_succ (n : Nat) (f : Nat → List Byte) :
    (List.range (n + 1)).flatMap f = f 0 ++ (List.range n).flatMap fun k => f (k + 1) := by
  simp [List.range_succ_eq_map, List.flatMap_map]

/-- CHUNK after `k` turns behind the first. -/
theorem chunk_shift (c : DWord) (k : Nat) : c + 1 + BitVec.ofNat 64 k = c + BitVec.ofNat 64 (k + 1) := by
  rw [BitVec.add_assoc, Nat.add_comm k 1, BitVec.ofNat_add]
  rfl

/-- Everything the loop of FILE_ENC does (rule R105), besides what it leaves in the working state. -/
theorem encryptChunks_eq (n : Nat) (s : State) (hp : s.padNat ≤ 7) (hn : n = 0 → s.padNat = 0)
    (hd : 8 * n ≤ s.din.length + s.padNat) :
    encryptChunks n s =
      { s with
        work := (encryptChunks n s).work
        din := s.din.drop (8 * n - s.padNat)
        dout := s.dout ++ (List.range n).flatMap fun k =>
          chunkEnc s.kmat (s.chunk + BitVec.ofNat 64 k)
            (slice (s.din.take (8 * n - s.padNat) ++ s.rndHead s.padNat) (8 * k) 8)
        chunk := s.chunk + BitVec.ofNat 64 n
        rndDrawn := s.rndDrawn + s.padNat } := by
  induction n generalizing s with
  | zero => simp [encryptChunks, hn rfl]
  | succ m ih =>
    cases m with
    | zero =>
      by_cases h0 : s.padNat = 0
      · simp [encryptChunks, h0, encryptFullChunk, encryptChunk, State.dinPop, State.doutPush, State.dinHead,
          slice, chunkEnc, strm, blkEnc, List.take_take]
      · have hs : slice (s.din.take (8 - s.padNat) ++ s.rndHead s.padNat) 0 8 =
            s.din.take (8 - s.padNat) ++ s.rndHead s.padNat := by
          simp only [slice, List.drop_zero]
          apply List.take_of_length_le
          simp only [List.length_append, List.length_take, rndHead_length]
          omega
        simp [encryptChunks, h0, encryptLastChunk, encryptChunk, State.dinPop, State.doutPush, State.dinHead,
          State.rndDraw, hs, chunkEnc, strm, blkEnc]
    | succ n =>
      have hpad : (encryptFullChunk s).padNat = s.padNat := rfl
      have hrnd : (encryptFullChunk s).rndHead s.padNat = s.rndHead s.padNat := rfl
      have hdin : (encryptFullChunk s).din = s.din.drop 8 := rfl
      have step := ih (encryptFullChunk s) (by rw [hpad]; exact hp) (by omega)
        (by rw [hpad, hdin, List.length_drop]; omega)
      have hk0 : slice (s.din.take (8 * (n + 2) - s.padNat) ++ s.rndHead s.padNat) 0 8 = s.din.take 8 := by
        simp only [slice, List.drop_zero]
        rw [List.take_append_of_le_length (by rw [List.length_take]; omega), List.take_take,
          Nat.min_eq_left (by omega)]
      have hks : (s.din.drop 8).take (8 * (n + 1) - s.padNat) ++ s.rndHead s.padNat =
          (s.din.take (8 * (n + 2) - s.padNat) ++ s.rndHead s.padNat).drop 8 := by
        rw [List.drop_append_of_le_length (by rw [List.length_take]; omega), List.drop_take,
          show 8 * (n + 2) - s.padNat - 8 = 8 * (n + 1) - s.padNat by omega]
      rw [hpad, hrnd, hdin, hks] at step
      simp only [slice_drop] at step
      refine step.trans (State.mk.injEq .. |>.mpr
        ⟨rfl, rfl, rfl, rfl, rfl, rfl, rfl, rfl, ?_, rfl, rfl, rfl, rfl, rfl, ?_, ?_, rfl, rfl, rfl⟩)
      · exact chunk_shift s.chunk (n + 1)
      · rw [List.drop_drop, show 8 + (8 * (n + 1) - s.padNat) = 8 * (n + 1 + 1) - s.padNat by omega]
      · have hdout : (encryptFullChunk s).dout = s.dout ++ chunkEnc s.kmat s.chunk (s.din.take 8) := rfl
        rw [flatMap_range_succ (n + 1), Nat.mul_zero, hk0, BitVec.add_zero, hdout, List.append_assoc]
        refine congrArg (fun f => s.dout ++ (chunkEnc s.kmat s.chunk (s.din.take 8) ++ (List.range (n + 1)).flatMap f))
          (funext fun k => ?_)
        rw [← chunk_shift s.chunk, show 8 * (k + 1) = 8 + 8 * k by omega]
        rfl

/-- Everything the loop of FILE_DEC does (rule R106), besides what it leaves in the working state. -/
theorem decryptChunks_eq (n : Nat) (s : State) (hp : s.padNat ≤ 7) (hd : 8 * n ≤ s.din.length) :
    decryptChunks n s =
      { s with
        work := (decryptChunks n s).work
        din := s.din.drop (8 * n)
        dout := s.dout ++ ((List.range n).flatMap fun k =>
          chunkDec s.kmat (s.chunk + BitVec.ofNat 64 k) (slice s.din (8 * k) 8)).take (8 * n - s.padNat)
        chunk := s.chunk + BitVec.ofNat 64 n } := by
  induction n generalizing s with
  | zero => simp [decryptChunks]
  | succ m ih =>
    cases m with
    | zero =>
      simp [decryptChunks, decryptLastChunk, decryptChunk, State.dinPop, State.doutPush, State.dinHead, slice, chunkDec,
        strm, blkDec]
    | succ n =>
      have hpad : (decryptFullChunk s).padNat = s.padNat := rfl
      have hdin : (decryptFullChunk s).din = s.din.drop 8 := rfl
      have hdout : (decryptFullChunk s).dout = s.dout ++ chunkDec s.kmat s.chunk (s.din.take 8) :=
        congrArg (s.dout ++ ·) (List.take_of_length_le (Nat.le_of_eq (chunkDec_length ..)))
      have step := ih (decryptFullChunk s) (by rw [hpad]; exact hp) (by rw [hdin, List.length_drop]; omega)
      rw [hpad, hdin, hdout] at step
      simp only [slice_drop] at step
      refine step.trans (State.mk.injEq .. |>.mpr
        ⟨rfl, rfl, rfl, rfl, rfl, rfl, rfl, rfl, ?_, rfl, rfl, rfl, rfl, rfl, ?_, ?_, rfl, rfl, rfl⟩)
      · exact chunk_shift s.chunk (n + 1)
      · rw [List.drop_drop, show 8 + 8 * (n + 1) = 8 * (n + 1 + 1) by omega]
      · rw [flatMap_range_succ (n + 1), Nat.mul_zero, BitVec.add_zero, List.take_append,
          chunkDec_length, List.take_of_length_le (l := chunkDec ..) (by rw [chunkDec_length]; omega), List.append_assoc,
          show 8 * (n + 1 + 1) - s.padNat - 8 = 8 * (n + 1) - s.padNat by omega]
        refine congrArg (fun f => s.dout ++ (chunkDec s.kmat s.chunk (s.din.take 8) ++
          ((List.range (n + 1)).flatMap f).take (8 * (n + 1) - s.padNat))) (funext fun k => ?_)
        rw [← chunk_shift s.chunk, show 8 * (k + 1) = 8 + 8 * k by omega]
        rfl

/-- Everything the loop of FILE_ENC can change, with no premise. -/
theorem encryptChunks_frame (n : Nat) (s : State) :
    ∃ w d o c r, encryptChunks n s = { s with work := w, din := d, dout := o, chunk := c, rndDrawn := r } := by
  induction n generalizing s with
  | zero => exact ⟨_, _, _, _, _, rfl⟩
  | succ m ih =>
    cases m with
    | zero =>
      show ∃ w d o c r, (if s.padNat ≠ 0 then encryptLastChunk s else encryptFullChunk s) = _
      split <;> exact ⟨_, _, _, _, _, rfl⟩
    | succ n =>
      obtain ⟨w, d, o, c, r, h⟩ := ih (encryptFullChunk s)
      exact ⟨w, d, o, c, r, h⟩

/-- Everything the loop of FILE_DEC can change, with no premise. -/
theorem decryptChunks_frame (n : Nat) (s : State) :
    ∃ w d o c, decryptChunks n s = { s with work := w, din := d, dout := o, chunk := c } := by
  induction n generalizing s with
  | zero => exact ⟨_, _, _, _, rfl⟩
  | succ m ih =>
    cases m with
    | zero => exact ⟨_, _, _, _, rfl⟩
    | succ n =>
      obtain ⟨w, d, o, c, h⟩ := ih (decryptFullChunk s)
      exact ⟨w, d, o, c, h⟩

/-- Everything steps 1 to 3 of FILE_ENC can change (rule R105). -/
theorem fileEncStart_frame (s : State) :
    ∃ w d o c r p t k, fileEncStart s =
      { s with work := w, din := d, dout := o, chunk := c, rndDrawn := r, padcount := p, salt := t, kmat := k } :=
  ⟨_, _, _, _, _, _, _, _, rfl⟩

/-- Everything steps 1 and 2 of FILE_DEC can change (rule R106). -/
theorem fileDecStart_frame (s : State) :
    ∃ w d c p t k, fileDecStart s =
      { s with work := w, din := d, chunk := c, padcount := p, salt := t, kmat := k } :=
  ⟨_, _, _, _, _, _, rfl⟩

/-- Everything FILE_ENC's body can change (rule R105). -/
theorem fileEncBody_frame (s : State) :
    ∃ w d o c r p t, fileEncBody s =
      { s with
        work := w, din := d, dout := o, chunk := c, rndDrawn := r, padcount := p, salt := t
        kmat := Vector.replicate 64 0, status := { s.status with kvalid := false } } := by
  obtain ⟨_, _, _, _, _, p, t, _, h⟩ := fileEncStart_frame s
  rw [fileEncBody, h]
  obtain ⟨w, d, o, c, r, h'⟩ := encryptChunks_frame ((s.lenNat + padCount s.lenNat) / 8) _
  rw [h']
  exact ⟨w, d, o, c, r, p, t, rfl⟩

/-- Everything FILE_DEC's body can change (rule R106). -/
theorem fileDecBody_frame (s : State) :
    ∃ w d o c p t, fileDecBody s =
      { s with
        work := w, din := d, dout := o, chunk := c, padcount := p, salt := t
        kmat := Vector.replicate 64 0, status := { s.status with kvalid := false } } := by
  obtain ⟨_, _, _, p, t, _, h⟩ := fileDecStart_frame s
  rw [fileDecBody, h]
  obtain ⟨w, d, o, c, h'⟩ := decryptChunks_frame ((s.lenNat - Config.headerBytes) / 8) _
  rw [h']
  exact ⟨w, d, o, c, p, t, rfl⟩

end Sys2Proof.Machine
end

