-- ==== Sys2Proof/Laws/Bodies.lean ====
section
/-!
SUPPORT. What the body of a command can write, field by field (rule R50 and the "who writes it" lines of 10_state.md): a
lemma for every field that only some commands write.
-/

namespace Sys2Proof.Machine
/-- No body writes ERRCODE. -/
theorem bodyOf_errcode (i : Instr) (s : State) (h : i ≠ .softReset) :
    (bodyOf i s).errcode = s.errcode := by
  cases i with
  | softReset => exact absurd h (by decide)
  | fileEnc =>
    obtain ⟨_, _, _, _, _, _, _, e⟩ := fileEncBody_frame s
    rw [bodyOf, e]
  | fileDec =>
    obtain ⟨_, _, _, _, _, _, e⟩ := fileDecBody_frame s
    rw [bodyOf, e]
  | blkDec =>
    simp only [bodyOf]
    unfold blkDecBody
    rfl
  | _ => rfl

/-- No body writes ERRINFO. -/
theorem bodyOf_errinfo (i : Instr) (s : State) (h : i ≠ .softReset) :
    (bodyOf i s).errinfo = s.errinfo := by
  cases i with
  | softReset => exact absurd h (by decide)
  | fileEnc =>
    obtain ⟨_, _, _, _, _, _, _, e⟩ := fileEncBody_frame s
    rw [bodyOf, e]
  | fileDec =>
    obtain ⟨_, _, _, _, _, _, e⟩ := fileDecBody_frame s
    rw [bodyOf, e]
  | blkDec =>
    simp only [bodyOf]
    unfold blkDecBody
    rfl
  | _ => rfl

/-- No body writes IEN. -/
theorem bodyOf_ien (i : Instr) (s : State) (h : i ≠ .softReset) :
    (bodyOf i s).ien = s.ien := by
  cases i with
  | softReset => exact absurd h (by decide)
  | fileEnc =>
    obtain ⟨_, _, _, _, _, _, _, e⟩ := fileEncBody_frame s
    rw [bodyOf, e]
  | fileDec =>
    obtain ⟨_, _, _, _, _, _, e⟩ := fileDecBody_frame s
    rw [bodyOf, e]
  | blkDec =>
    simp only [bodyOf]
    unfold blkDecBody
    rfl
  | _ => rfl

/-- No body writes LEN. -/
theorem bodyOf_len (i : Instr) (s : State) (h : i ≠ .softReset) :
    (bodyOf i s).len = s.len := by
  cases i with
  | softReset => exact absurd h (by decide)
  | fileEnc =>
    obtain ⟨_, _, _, _, _, _, _, e⟩ := fileEncBody_frame s
    rw [bodyOf, e]
  | fileDec =>
    obtain ⟨_, _, _, _, _, _, e⟩ := fileDecBody_frame s
    rw [bodyOf, e]
  | blkDec =>
    simp only [bodyOf]
    unfold blkDecBody
    rfl
  | _ => rfl

/-- No body writes PWLEN. -/
theorem bodyOf_pwlen (i : Instr) (s : State) (h : i ≠ .softReset) :
    (bodyOf i s).pwlen = s.pwlen := by
  cases i with
  | softReset => exact absurd h (by decide)
  | fileEnc =>
    obtain ⟨_, _, _, _, _, _, _, e⟩ := fileEncBody_frame s
    rw [bodyOf, e]
  | fileDec =>
    obtain ⟨_, _, _, _, _, _, e⟩ := fileDecBody_frame s
    rw [bodyOf, e]
  | blkDec =>
    simp only [bodyOf]
    unfold blkDecBody
    rfl
  | _ => rfl

/-- No body writes KLEN. -/
theorem bodyOf_klen (i : Instr) (s : State) (h : i ≠ .softReset) :
    (bodyOf i s).klen = s.klen := by
  cases i with
  | softReset => exact absurd h (by decide)
  | fileEnc =>
    obtain ⟨_, _, _, _, _, _, _, e⟩ := fileEncBody_frame s
    rw [bodyOf, e]
  | fileDec =>
    obtain ⟨_, _, _, _, _, _, e⟩ := fileDecBody_frame s
    rw [bodyOf, e]
  | blkDec =>
    simp only [bodyOf]
    unfold blkDecBody
    rfl
  | _ => rfl

/-- No body writes KEY. -/
theorem bodyOf_key (i : Instr) (s : State) (h : i ≠ .softReset) :
    (bodyOf i s).key = s.key := by
  cases i with
  | softReset => exact absurd h (by decide)
  | fileEnc =>
    obtain ⟨_, _, _, _, _, _, _, e⟩ := fileEncBody_frame s
    rw [bodyOf, e]
  | fileDec =>
    obtain ⟨_, _, _, _, _, _, e⟩ := fileDecBody_frame s
    rw [bodyOf, e]
  | blkDec =>
    simp only [bodyOf]
    unfold blkDecBody
    rfl
  | _ => rfl

/-- No body touches the host's pending. -/
theorem bodyOf_pending (i : Instr) (s : State) (h : i ≠ .softReset) :
    (bodyOf i s).pending = s.pending := by
  cases i with
  | softReset => exact absurd h (by decide)
  | fileEnc =>
    obtain ⟨_, _, _, _, _, _, _, e⟩ := fileEncBody_frame s
    rw [bodyOf, e]
  | fileDec =>
    obtain ⟨_, _, _, _, _, _, e⟩ := fileDecBody_frame s
    rw [bodyOf, e]
  | blkDec =>
    simp only [bodyOf]
    unfold blkDecBody
    rfl
  | _ => rfl

/-- No body touches the host's replies. -/
theorem bodyOf_replies (i : Instr) (s : State) (h : i ≠ .softReset) :
    (bodyOf i s).replies = s.replies := by
  cases i with
  | softReset => exact absurd h (by decide)
  | fileEnc =>
    obtain ⟨_, _, _, _, _, _, _, e⟩ := fileEncBody_frame s
    rw [bodyOf, e]
  | fileDec =>
    obtain ⟨_, _, _, _, _, _, e⟩ := fileDecBody_frame s
    rw [bodyOf, e]
  | blkDec =>
    simp only [bodyOf]
    unfold blkDecBody
    rfl
  | _ => rfl

/-- A body cannot fail: ERR stays (rule R14). -/
theorem bodyOf_err (i : Instr) (s : State) (h : i ≠ .softReset) :
    (bodyOf i s).status.err = s.status.err := by
  cases i with
  | softReset => exact absurd h (by decide)
  | fileEnc =>
    obtain ⟨_, _, _, _, _, _, _, e⟩ := fileEncBody_frame s
    rw [bodyOf, e]
  | fileDec =>
    obtain ⟨_, _, _, _, _, _, e⟩ := fileDecBody_frame s
    rw [bodyOf, e]
  | blkDec =>
    simp only [bodyOf]
    unfold blkDecBody
    rfl
  | _ => rfl

/-- Who writes DIGEST (rule R29). -/
theorem bodyOf_digest (i : Instr) (s : State) (h : i ∉ [Instr.softReset, .hash]) :
    (bodyOf i s).digest = s.digest := by
  cases i with
  | softReset => exact absurd h (by decide)
  | hash => exact absurd h (by decide)
  | fileEnc =>
    obtain ⟨_, _, _, _, _, _, _, e⟩ := fileEncBody_frame s
    rw [bodyOf, e]
  | fileDec =>
    obtain ⟨_, _, _, _, _, _, e⟩ := fileDecBody_frame s
    rw [bodyOf, e]
  | blkDec =>
    simp only [bodyOf]
    unfold blkDecBody
    rfl
  | _ => rfl

/-- Who writes SALT (rule R30). -/
theorem bodyOf_salt (i : Instr) (s : State) (h : i ∉ [Instr.softReset, .saltGen, .hdrGet, .fileEnc, .fileDec]) :
    (bodyOf i s).salt = s.salt := by
  cases i with
  | softReset => exact absurd h (by decide)
  | saltGen => exact absurd h (by decide)
  | hdrGet => exact absurd h (by decide)
  | fileEnc => exact absurd h (by decide)
  | fileDec => exact absurd h (by decide)
  | blkDec =>
    simp only [bodyOf]
    unfold blkDecBody
    rfl
  | _ => rfl

/-- Who writes PADCOUNT (rule R27). -/
theorem bodyOf_padcount (i : Instr) (s : State) (h : i ∉ [Instr.softReset, .hdrGet, .fileEnc, .fileDec]) :
    (bodyOf i s).padcount = s.padcount := by
  cases i with
  | softReset => exact absurd h (by decide)
  | hdrGet => exact absurd h (by decide)
  | fileEnc => exact absurd h (by decide)
  | fileDec => exact absurd h (by decide)
  | blkDec =>
    simp only [bodyOf]
    unfold blkDecBody
    rfl
  | _ => rfl

/-- Who writes CHUNK (rule R28). -/
theorem bodyOf_chunk (i : Instr) (s : State) (h : i ∉ [Instr.softReset, .kdf, .chunkEnc, .chunkDec, .chunkEncLast, .chunkDecLast, .fileEnc, .fileDec]) :
    (bodyOf i s).chunk = s.chunk := by
  cases i with
  | softReset => exact absurd h (by decide)
  | kdf => exact absurd h (by decide)
  | chunkEnc => exact absurd h (by decide)
  | chunkDec => exact absurd h (by decide)
  | chunkEncLast => exact absurd h (by decide)
  | chunkDecLast => exact absurd h (by decide)
  | fileEnc => exact absurd h (by decide)
  | fileDec => exact absurd h (by decide)
  | blkDec =>
    simp only [bodyOf]
    unfold blkDecBody
    rfl
  | _ => rfl

/-- Who writes KMAT (rule R32). -/
theorem bodyOf_kmat (i : Instr) (s : State) (h : i ∉ [Instr.softReset, .kdf, .fileEnc, .fileDec]) :
    (bodyOf i s).kmat = s.kmat := by
  cases i with
  | softReset => exact absurd h (by decide)
  | kdf => exact absurd h (by decide)
  | fileEnc => exact absurd h (by decide)
  | fileDec => exact absurd h (by decide)
  | blkDec =>
    simp only [bodyOf]
    unfold blkDecBody
    rfl
  | _ => rfl

/-- Who writes KVALID (rules R19, R32). -/
theorem bodyOf_kvalid (i : Instr) (s : State) (h : i ∉ [Instr.softReset, .kdf, .fileEnc, .fileDec]) :
    (bodyOf i s).status.kvalid = s.status.kvalid := by
  cases i with
  | softReset => exact absurd h (by decide)
  | kdf => exact absurd h (by decide)
  | fileEnc => exact absurd h (by decide)
  | fileDec => exact absurd h (by decide)
  | blkDec =>
    simp only [bodyOf]
    unfold blkDecBody
    rfl
  | _ => rfl

/-- Where a body leaves KVALID = 0, KMAT is what it was before, still without a key, or zero (rule R32). -/
theorem bodyOf_key_lifetime (i : Instr) (s : State) (h : (bodyOf i s).status.kvalid = false) :
    (s.status.kvalid = false ∧ (bodyOf i s).kmat = s.kmat) ∨ (bodyOf i s).kmat = Vector.replicate 64 0 := by
  cases i with
  | softReset => exact .inr rfl
  | kdf => exact nomatch h
  | fileEnc =>
    obtain ⟨_, _, _, _, _, _, _, e⟩ := fileEncBody_frame s
    rw [bodyOf, e]
    exact .inr rfl
  | fileDec =>
    obtain ⟨_, _, _, _, _, _, e⟩ := fileDecBody_frame s
    rw [bodyOf, e]
    exact .inr rfl
  | _ => exact .inl ⟨(bodyOf_kvalid _ s (by decide)).symm.trans h, bodyOf_kmat _ s (by decide)⟩

end Sys2Proof.Machine
end

