-- ==== Sys2Proof/Laws/Decode.lean ====
section
/-!
SUPPORT. Laws of the decoder, the encoder and the register map.
-/

namespace Sys2Proof

/-- A decoded opcode stands in the table. -/
theorem decodeOp_mem {op : Byte} {i : Instr} (h : decodeOp op = .ok i) : (op, i) ∈ opcodeTable := by
  unfold decodeOp at h
  split at h
  · rename_i row hr
    cases h
    have hm := List.mem_of_find?_eq_some hr
    have he := List.find?_some hr
    simp only [beq_iff_eq] at he
    exact he ▸ hm
  · cases h

/-- The table's word of a command is its opcode with bits 31:8 zero. -/
theorem encode_of_mem : ∀ row ∈ opcodeTable, encode row.2 = row.1.setWidth 32 := by decide

/-- Every command has a row. -/
theorem mem_opcodeTable (i : Instr) : ∃ op, (op, i) ∈ opcodeTable := by
  cases i <;> exact ⟨_, by simp [opcodeTable]; rfl⟩

/-- A word with a zero field is its opcode field. -/
theorem word_of_fields {w : Word} (h : zeroField w = 0) : w = (opField w).setWidth 32 := by
  ext i hi
  have hb := congrArg (fun b => b.getLsbD (i - 8)) h
  simp only [zeroField, BitVec.getLsbD_extractLsb'] at hb
  by_cases h8 : i < 8
  · simp [opField, h8, hi, ← BitVec.getLsbD_eq_getElem]
  · simp only [show 8 + (i - 8) = i by omega, show i - 8 < 24 by omega, decide_true, Bool.true_and] at hb
    simp [opField, h8, hi, ← BitVec.getLsbD_eq_getElem, hb]

/-- Window word `off / 4` is the register at offset `off`. -/
theorem regOfIndex_offset (r : Reg) : regOfIndex (r.offset / 4) = some r := by
  cases r with
  | reserved k => revert k; decide
  | digest i => revert i; decide
  | salt j => revert j; decide
  | key j => revert j; decide
  | _ => rfl

/-- Offsets are aligned and inside the window. -/
theorem Reg.offset_aligned (r : Reg) : r.offset % 4 = 0 ∧ r.offset ≤ 0x1FC := by
  cases r <;> simp [Reg.offset] <;> omega

/-- The register a window word names stands at that word's offset. -/
theorem offset_of_regOfIndex {k : Nat} {r : Reg} (h : regOfIndex k = some r) : r.offset = 4 * k := by
  unfold regOfIndex at h
  split at h
  · interval_cases k <;> cases h <;> rfl
  · split_ifs at h <;> cases h <;> simp only [Reg.offset] <;> omega

/-- Every word of the window is a register's. -/
theorem regOfIndex_isSome : ∀ k : Fin 128, (regOfIndex k.val).isSome := by decide

/-- There is no word beyond the window. -/
theorem regOfIndex_eq_none {k : Nat} (h : 128 ≤ k) : regOfIndex k = none := by
  simp [regOfIndex, show ¬k < 13 by omega, show ¬k - 13 < 3 by omega, show ¬k - 16 < 16 by omega,
    show ¬k - 32 < 32 by omega, show ¬k - 64 < 64 by omega]

end Sys2Proof
end

