-- ==== Sys2Proof/Laws/Errors.lean ====
section
/-!
SUPPORT. The checks the meanings make are rule R113's table: `firstError` of a command's checks, taken on the accepted
state, is `firstFailure` of the table on the state before.
-/

namespace Sys2Proof.Machine

/-- The first failing row of a table of codes is the first failing check. -/
theorem find_firstError (l : List (Bool × ErrKind)) :
    ((l.map fun p => (p.1, errCode p.2)).find? fun p => p.1).map (fun p => p.2) = (firstError l).map errCode := by
  induction l with
  | nil => rfl
  | cons p l ih =>
    obtain ⟨b, k⟩ := p
    cases b with
    | true => rfl
    | false => exact ih

/-- A register holds `n` exactly when its bits are `n`'s. -/
theorem toNat_eq_iff_ofNat {w : Nat} (x : BitVec w) (n : Nat) (h : n < 2 ^ w) : x.toNat = n ↔ x = BitVec.ofNat w n := by
  constructor
  · intro e
    apply BitVec.eq_of_toNat_eq
    simp [e, Nat.mod_eq_of_lt h]
  · rintro rfl
    simp [Nat.mod_eq_of_lt h]

/-- Each command's checks are its row of rule R113. -/
theorem failureTable_eq_checks (i : Instr) (s : State) :
    failureTable i s = (checksOf i (accept s)).map fun p => (p.1, errCode p.2) := by
  have k0 := toNat_eq_iff_ofNat s.klen 0 (by decide)
  have k16 := toNat_eq_iff_ofNat s.klen 16 (by decide)
  have l8 := toNat_eq_iff_ofNat s.len 8 (by decide)
  cases i with
  | strm => simp [failureTable, checksOf, strmChecks, errCode, State.klenNat, State.lenNat, State.dinAvail, k0]; rfl
  | blkEnc => simp [failureTable, checksOf, blkChecks, errCode, State.klenNat, State.lenNat, State.dinAvail, k16, l8]; rfl
  | blkDec => simp [failureTable, checksOf, blkChecks, errCode, State.klenNat, State.lenNat, State.dinAvail, k16, l8]; rfl
  | chunkEnc => simp [failureTable, checksOf, chunkChecks, errCode, State.dinAvail]; rfl
  | chunkDec => simp [failureTable, checksOf, chunkChecks, errCode, State.dinAvail]; rfl
  | chunkEncLast => simp [failureTable, checksOf, chunkEncLastChecks, errCode, State.dinAvail, State.padNat]; rfl
  | chunkDecLast => simp [failureTable, checksOf, chunkDecLastChecks, errCode, State.dinAvail, State.padNat]; rfl
  | _ => rfl

/-- The first failing row of rule R113 is the code of the error the command reports (rule R119). -/
theorem firstFailure_eq (i : Instr) (s : State) :
    firstFailure i s = (firstError (checksOf i (accept s))).map errCode := by
  rw [firstFailure, failureTable_eq_checks, find_firstError]

end Sys2Proof.Machine
end

