-- ==== Sys2Proof/Laws/PerInstr.lean ====
section
/-!
SUPPORT. Per-command laws: every command is well-formed, its word decodes to it, and the word the opcode table numbers
decodes to it too (rules R59, R61).
-/

namespace Sys2Proof.Laws.RoundTrip

/-- What the family says of a command. -/
def Statement (i : Instr) : Prop :=
  i.wf = true ∧ decode (encode i) = .ok i ∧ decodeTableWord 32 (encode i).toNat = some i

theorem nop : Statement .nop := ⟨rfl, rfl, rfl⟩
theorem softReset : Statement .softReset := ⟨rfl, rfl, rfl⟩
theorem hash : Statement .hash := ⟨rfl, rfl, rfl⟩
theorem strm : Statement .strm := ⟨rfl, rfl, rfl⟩
theorem blkEnc : Statement .blkEnc := ⟨rfl, rfl, rfl⟩
theorem blkDec : Statement .blkDec := ⟨rfl, rfl, rfl⟩
theorem saltGen : Statement .saltGen := ⟨rfl, rfl, rfl⟩
theorem kdf : Statement .kdf := ⟨rfl, rfl, rfl⟩
theorem hdrPut : Statement .hdrPut := ⟨rfl, rfl, rfl⟩
theorem hdrGet : Statement .hdrGet := ⟨rfl, rfl, rfl⟩
theorem chunkEnc : Statement .chunkEnc := ⟨rfl, rfl, rfl⟩
theorem chunkDec : Statement .chunkDec := ⟨rfl, rfl, rfl⟩
theorem chunkEncLast : Statement .chunkEncLast := ⟨rfl, rfl, rfl⟩
theorem chunkDecLast : Statement .chunkDecLast := ⟨rfl, rfl, rfl⟩
theorem fileEnc : Statement .fileEnc := ⟨rfl, rfl, rfl⟩
theorem fileDec : Statement .fileDec := ⟨rfl, rfl, rfl⟩

end Sys2Proof.Laws.RoundTrip
end

