-- ==== Sys2Proof/Laws/Window.lean ====
section
/-!
SUPPORT. Laws of the register window: the halves of a 64-bit register and the words of a byte buffer, read after written
(rules R24, R28, R46).
-/

namespace Sys2Proof.Machine

@[simp] theorem loHalf_ofHalves (hi lo : Word) : loHalf (ofHalves hi lo) = lo := by
  ext i h
  simp [loHalf, ofHalves, h, show i < 64 by omega]

@[simp] theorem hiHalf_ofHalves (hi lo : Word) : hiHalf (ofHalves hi lo) = hi := by
  ext i h
  simp [hiHalf, ofHalves, h, show 32 + i < 64 by omega]

@[simp] theorem ofHalves_halves (v : DWord) : ofHalves (hiHalf v) (loHalf v) = v := by
  ext i h
  simp only [ofHalves, hiHalf, loHalf, ← BitVec.getLsbD_eq_getElem]
  by_cases h32 : i < 32
  · simp [h32, h]
  · simp [h32, h, show 32 + (i - 32) = i by omega, show i - 32 < 32 by omega]

/-- The bytes of a word of a written buffer: the word's own lanes, or the old bytes. -/
theorem fileSetWord_byte {n : Nat} (file : Vector Byte n) (j j' q : Nat) (v : Word) (hq : q < 4) (hj : 4 * j' + 4 ≤ n) :
    (fileSetWord file j v).toList.getD (4 * j' + q) 0 =
      if j' = j then byteLane v q else file.toList.getD (4 * j' + q) 0 := by
  rw [List.getD_eq_getElem _ _ (by simp; omega), List.getD_eq_getElem _ _ (by simp; omega)]
  simp [fileSetWord_getElem, show (4 * j' + q) / 4 = j' by omega, show (4 * j' + q) % 4 = q by omega]

/-- A word of a byte buffer after a write to one of its words. -/
theorem fileWord_fileSetWord {n : Nat} (file : Vector Byte n) (j j' : Nat) (v : Word) (hj : 4 * j' + 4 ≤ n) :
    fileWord (fileSetWord file j v) j' = if j' = j then v else fileWord file j' := by
  have h0 := fileSetWord_byte file j j' 0 v (by omega) hj
  simp only [Nat.add_zero] at h0
  simp only [fileWord, le32At, h0, fileSetWord_byte file j j' _ v (by omega : 1 < 4) hj,
    fileSetWord_byte file j j' _ v (by omega : 2 < 4) hj, fileSetWord_byte file j j' _ v (by omega : 3 < 4) hj]
  split <;> simp

/-- The bits a narrow register keeps of a written word. -/
theorem setWidth_setWidth_eq_and (v : Word) (k : Nat) (hk : k ≤ 32) :
    (v.setWidth k).setWidth 32 = v &&& BitVec.ofNat 32 (2 ^ k - 1) := by
  have h1 : 2 ^ k ≤ 2 ^ 32 := Nat.pow_le_pow_right (by omega) hk
  have h2 : 0 < 2 ^ k := Nat.two_pow_pos k
  apply BitVec.eq_of_toNat_eq
  simp only [BitVec.toNat_setWidth, BitVec.toNat_and, BitVec.toNat_ofNat]
  rw [Nat.mod_eq_of_lt (a := 2 ^ k - 1) (by omega), Nat.and_two_pow_sub_one_eq_mod,
    Nat.mod_eq_of_lt (lt_of_lt_of_le (Nat.mod_lt _ h2) h1)]

end Sys2Proof.Machine
end

