-- ==== Sys2Proof/Tests/Slice0.lean ====
section
/-!
SUPPORT. Tests against the spec's own values (95_test_vectors.md; the vector's name stands at each test) and, for every
obligation that has hypotheses, a named witness that meets them.
-/

open Sys2Proof Sys2Proof.Machine

namespace Sys2Proof.Tests

/-- One fact about the next state; `none` where there is none. -/
def after {α : Type} (o : Host.Outcome State Fault Refusal) (f : State → α) : Option α :=
  match o with
  | .next t => some (f t)
  | .fault _ => none
  | .refused _ => none

/-- STATUS, ERRCODE, ERRINFO as the host reads them, and the levels of DIN and DOUT: the columns of the table of errors. -/
def errorRow (s : State) : Word × Word × Word × Nat × Nat :=
  (regRead .status s, regRead .errcode s, regRead .errinfo s, s.din.length, s.dout.length)

/-- The byte string `k, k+1, .., k+n-1`. -/
def upFrom (k n : Nat) : List Byte := (List.range n).map fun i => BitVec.ofNat 8 (k + i)

theorem upFrom_length (k n : Nat) : (upFrom k n).length = n := by simp [upFrom]

/-- The hash state `S[i] = i` of vectors H1 and H2. -/
def iota : HashState := tabulate fun i => BitVec.ofNat 32 i.val

/-! ### Well-formedness (rules R44, R45) -/

theorem test_wf_accepts_last_word : (HostTx.memWrite 0x1FC 4 0).wf = true := by decide
theorem test_wf_refuses_halfword : (HostTx.memRead 0x004 2).wf = false := by decide
theorem test_wf_refuses_misaligned : (HostTx.memRead 0x006 4).wf = false := by decide
theorem test_wf_refuses_beyond_window : (HostTx.memWrite 0x200 4 0).wf = false := by decide

/-! ### Decoding, every command's word written out bit by bit from rules R59 and R61 -/

theorem test_decode_system :
    decode 0b00000000000000000000000000000000 = .ok .nop ∧
    decode 0b00000000000000000000000000000001 = .ok .softReset := by decide

theorem test_decode_hash : decode 0b00000000000000000000000000010000 = .ok .hash := by decide

theorem test_decode_stream : decode 0b00000000000000000000000000100000 = .ok .strm := by decide

theorem test_decode_block :
    decode 0b00000000000000000000000000110000 = .ok .blkEnc ∧
    decode 0b00000000000000000000000000110001 = .ok .blkDec := by decide

theorem test_decode_sequencer_steps :
    decode 0b00000000000000000000000001000000 = .ok .saltGen ∧
    decode 0b00000000000000000000000001000001 = .ok .kdf ∧
    decode 0b00000000000000000000000001000010 = .ok .hdrPut ∧
    decode 0b00000000000000000000000001000011 = .ok .hdrGet ∧
    decode 0b00000000000000000000000001000100 = .ok .chunkEnc ∧
    decode 0b00000000000000000000000001000101 = .ok .chunkDec ∧
    decode 0b00000000000000000000000001000110 = .ok .chunkEncLast ∧
    decode 0b00000000000000000000000001000111 = .ok .chunkDecLast := by decide

theorem test_decode_file :
    decode 0b00000000000000000000000001010000 = .ok .fileEnc ∧
    decode 0b00000000000000000000000001010001 = .ok .fileDec := by decide

/-- E6's words, and the neighbours of the defined opcodes. -/
theorem test_decode_refuses :
    decode 0x00000002 = .error .opcodeUndefined ∧ decode 0x00000032 = .error .opcodeUndefined ∧
    decode 0x00000048 = .error .opcodeUndefined ∧ decode 0x00000052 = .error .opcodeUndefined ∧
    decode 0x00000110 = .error .zeroFieldNonzero ∧ decode 0x80000001 = .error .zeroFieldNonzero := by decide

theorem test_table_word : decodeTableWord 32 0x44 = some .chunkEnc ∧ decodeTableWord 32 0x48 = none := by decide

/-- The word placed by `withFetchWord` is the one the next step runs. -/
theorem test_fetch_word :
    after (step (State.reset.withFetchWord 32 0x00)) (regRead .status) = some 0x00000001 ∧
    after (step (State.reset.withFetchWord 32 0x44)) errorRow = some (0x2, 0x06, 0x44, 0, 0) := by decide

/-! ### Host transactions -/

/-- E16, E17. -/
theorem test_registers :
    regRead .klen (regWrite .klen 0x300 State.reset) = 0x00000100 ∧ regRead .id State.reset = 0x4A430001 := by decide

/-- SALT7 stands at 0x09C, KEY0 at 0x100, DIGEST3 at 0x04C (rule R65). -/
theorem test_offsets :
    accessReg 0x09C 4 = some (.salt 7) ∧ accessReg 0x100 4 = some (.key 0) ∧ accessReg 0x04C 4 = some (.digest 3) ∧
    accessReg 0x03C 4 = some (.reserved 2) ∧ accessReg 0x200 4 = none := by decide

/-- Rule R46: byte `4j + 1` of the salt is bits 15:8 of word `j`. -/
theorem test_salt_packing : (regWrite (.salt 7) 0x44332211 State.reset).salt[29] = 0x22 := by decide

theorem test_bus_error :
    step { State.reset with pending := [.memRead 0x004 2] } = .fault .busError ∧
    step { State.reset with pending := [.memWrite 0x200 4 0] } = .fault .busError := by
  exact ⟨rfl, rfl⟩

theorem test_pop_hands_over_the_head :
    after (step { State.reset with dout := [1, 2, 3], pending := [.pop 2] }) (fun t => (t.dout, t.replies)) =
      some ([3], [.bytes [1, 2]]) := by decide

theorem test_pop_refused : step { State.reset with dout := [1], pending := [.pop 2] } = .refused .popUnavailable := by
  rfl

/-- Rule R19: writing 1 to STATUS bit 0 clears DONE, writing 2 clears nothing. -/
theorem test_clear_done :
    (regWrite .status 1 { State.reset with status := doneStatus true }).status = ⟨false, false, true, false⟩ ∧
    (regWrite .status 2 { State.reset with status := doneStatus true }).status = doneStatus true := by decide

/-! ### System commands, errors, interrupt line -/

/-- The example of rule R109. -/
theorem test_nop : after (exec .nop State.reset) (regRead .status) = some 0x00000001 := by decide

/-- P4: in the error state HASH is ignored, SOFT_RESET is not, and IEN stays. -/
theorem test_error_state :
    after (exec .hash (errorState 0x01 0x51 State.reset)) errorRow = some (0x2, 0x01, 0x51, 0, 0) ∧
    after (exec .softReset { errorState 0x01 0x51 State.reset with ien := 3, pwlen := 8, din := [1] })
      (fun t => (errorRow t, regRead .ien t, t.pwlen, t.irq)) = some ((0x1, 0, 0, 0, 0), 3, 0, true) := by decide

/-- E6. -/
theorem test_illegal_word :
    after (step { State.reset with pending := [scriptCmdw 0x00000110] }) errorRow = some (0x2, 0x07, 0x110, 0, 0) := by
  decide

/-- Rule R121: the ERR source alone raises IRQ when ERR_IE is set, not when only DONE_IE is. -/
theorem test_irq :
    ({ errorState 0x01 0x51 State.reset with ien := 2 } : State).irq = true ∧
    ({ errorState 0x01 0x51 State.reset with ien := 1 } : State).irq = false := by decide

/-! ### Hash unit -/

/-- H1. -/
theorem test_add_rotate : (addRotate iota 7 25).toList =
    [0x00000000, 0x00000080, 0x00000100, 0x00000180, 0x00000200, 0x00000280, 0x00000300, 0x00000380,
     0x00000400, 0x00000480, 0x00000500, 0x00000580, 0x00000600, 0x00000680, 0x00000700, 0x00000780,
     0x00000010, 0x00000012, 0x00000014, 0x00000016, 0x00000018, 0x0000001A, 0x0000001C, 0x0000001E,
     0x00000020, 0x00000022, 0x00000024, 0x00000026, 0x00000028, 0x0000002A, 0x0000002C, 0x0000002E] := by
  decide +kernel

/-- H2. -/
theorem test_round : (Machine.round iota).toList =
    [0x0030C424, 0x0034D4A8, 0x0038E524, 0x003CF5A8, 0x00208634, 0x002496B8, 0x0028A734, 0x002CB7B8,
     0x00114044, 0x001550C8, 0x00196144, 0x001D71C8, 0x00010254, 0x000512D8, 0x00092354, 0x000D33D8,
     0x000004A8, 0x00000424, 0x000005A8, 0x00000524, 0x000006B8, 0x00000634, 0x000007B8, 0x00000734,
     0x000000C8, 0x00000044, 0x000001C8, 0x00000144, 0x000002D8, 0x00000254, 0x000003D8, 0x00000354] := by
  decide +kernel

/-- H8 as register values: HASH of "abc", DIGEST0 and DIGEST15, one byte left in DIN. -/
theorem test_hash_abc :
    after (exec .hash { State.reset with din := [0x61, 0x62, 0x63, 0x99], len := 3 })
      (fun t => (t.digest[0], t.digest[15], t.din)) = some (0xFF85C0F6, 0x90B46A58, [0x99]) := by
  decide +kernel

/-- E4. -/
theorem test_hash_short :
    after (exec .hash { State.reset with din := [0x61, 0x62, 0x63], len := 4 }) errorRow =
      some (0x2, 0x03, 0x10, 3, 0) := by decide

/-! ### Stream unit -/

/-- S1: STRM of "Plaintext" under "Key", the key loaded into the buffer. -/
theorem test_strm :
    after (exec .strm { State.reset with
        key := fileOfBytes 256 [0x4B, 0x65, 0x79], klen := 3, len := 9
        din := [0x50, 0x6C, 0x61, 0x69, 0x6E, 0x74, 0x65, 0x78, 0x74] }) (fun t => t.dout) =
      some [0xBB, 0xF3, 0x16, 0xE8, 0xD9, 0x40, 0xAF, 0x0A, 0xD3] := by
  decide +kernel

/-- E15. -/
theorem test_strm_key_too_long :
    after (exec .strm { State.reset with klen := 257 }) errorRow = some (0x2, 0x02, 0x20, 0, 0) := by decide

/-! ### Block unit -/

/-- B2. -/
theorem test_blk_enc :
    after (exec .blkEnc { State.reset with key := fileOfBytes 256 (upFrom 0 16), klen := 16, len := 8, din := upFrom 0 8 })
      (fun t => t.dout) = some [0x25, 0x60, 0x04, 0xE1, 0xF5, 0x5B, 0xC0, 0xC7] := by
  decide +kernel

/-- B2's other column: BLK_DEC of a block that is no ciphertext. -/
theorem test_blk_dec :
    after (exec .blkDec { State.reset with key := fileOfBytes 256 (upFrom 0 16), klen := 16, len := 8, din := upFrom 0 8 })
      (fun t => t.dout) = some [0xE7, 0x9F, 0xF8, 0x36, 0xD5, 0x5C, 0xEE, 0x7E] := by
  decide +kernel

/-- E3: LEN = 7. -/
theorem test_blk_enc_length :
    after (exec .blkEnc { State.reset with klen := 16, len := 7, din := List.replicate 8 0 }) errorRow =
      some (0x2, 0x02, 0x30, 8, 0) := by decide

/-! ### Sequencer -/

/-- Q1. -/
theorem test_pad_count : [0, 1, 7, 8, 9, 15, 16, 1000].map padCount = [0, 7, 1, 0, 7, 1, 0, 0] := by decide

/-- Rule R92: the hashed message of Q2's first row is 137 bytes, the pad-count between password and salt. -/
theorem test_derive_message :
    (deriveMessage [0x70, 0x61, 0x73, 0x73, 0x77, 0x6F, 0x72, 0x64] 7 (upFrom 0 128)).length = 137 ∧
    slice (deriveMessage [0x70, 0x61, 0x73, 0x73, 0x77, 0x6F, 0x72, 0x64] 7 (upFrom 0 128)) 7 4 =
      [0x64, 0x07, 0x00, 0x01] := by decide +kernel

/-- Rule R97's example: SALT[127] is the 128th byte drawn, and the next draw is the 129th. -/
theorem test_salt_gen :
    after (exec .saltGen State.reset) (fun t => (t.salt[127], t.rndHead 1)) = some (Config.rnd 127, [Config.rnd 128]) := by
  rfl

/-- E7. -/
theorem test_kdf_pad_count :
    after (exec .kdf { State.reset with padcount := 8 }) errorRow = some (0x2, 0x05, 0x41, 0, 0) := by decide

/-- The end of rule R98's example: STATUS reads 5, CHUNK is 0, the password is taken. -/
theorem test_kdf_status :
    after (exec .kdf { State.reset with pwlen := 2, chunk := 9, din := [1, 2, 3] })
      (fun t => (regRead .status t, t.chunk, t.din)) = some (0x5, 0, [3]) := by
  decide

/-- Rule R99's example, but for the marker's bytes, which are a parameter. -/
theorem test_hdr_put :
    after (exec .hdrPut { State.reset with padcount := 7, salt := fileOfBytes 128 (upFrom 0 128) }) (fun t => t.dout) =
      some (Config.magic.toList ++ [7] ++ upFrom 0 128) := by
  show some ([] ++ (Config.magic.toList ++ [7] ++ (fileOfBytes 128 (upFrom 0 128)).toList)) = _
  rw [fileOfBytes_toList _ _ (by simp [upFrom])]
  rfl

/-- E14: two bytes cannot show a mismatch. -/
theorem test_hdr_get_short :
    after (exec .hdrGet { State.reset with din := [0x7A, 0x7A] }) errorRow = some (0x2, 0x03, 0x43, 2, 0) := by decide

/-- E5. -/
theorem test_chunk_enc_no_key :
    after (exec .chunkEnc { State.reset with din := List.replicate 8 0 }) errorRow = some (0x2, 0x06, 0x44, 8, 0) := by
  decide

/-- Q3, row n = 1: K[1] of the key of Q2's first row, the other sub-keys left zero. -/
theorem test_chunk_enc :
    after (exec .chunkEnc { State.reset with
        kmat := fileOfBytes 64 (List.replicate 16 0 ++
          [0xE5, 0xF0, 0x77, 0x55, 0x34, 0xCB, 0xD3, 0x1A, 0x36, 0x21, 0x2A, 0x20, 0xDE, 0x8B, 0x10, 0xDC])
        status := doneStatus true, chunk := 1, din := upFrom 0x41 8 }) (fun t => (t.dout, t.chunk)) =
      some ([0x48, 0x37, 0xD7, 0xC4, 0x40, 0x3C, 0x7B, 0x2B], 2) := by
  decide +kernel

/-- Rule R28: CHUNK wraps at 2^64. -/
theorem test_chunk_dec_wraps :
    after (exec .chunkDec { State.reset with
        status := doneStatus true, chunk := 0xFFFFFFFFFFFFFFFF, din := List.replicate 9 0 })
      (fun t => (t.chunk, t.din)) = some (0, [0]) := by
  decide

/-- The example of rule R103: one byte of DIN taken, seven bytes drawn. -/
theorem test_chunk_enc_last :
    after (exec .chunkEncLast { State.reset with status := doneStatus true, padcount := 7, chunk := 1, din := [0x49, 0x4A] })
      (fun t => (t.din, t.rndDrawn, t.chunk)) = some ([0x4A], 7, 2) := by
  decide

/-- Rule R104: with PADCOUNT = 8 there is no chunk to keep. -/
theorem test_chunk_dec_last_pad_count :
    after (exec .chunkDecLast { State.reset with status := doneStatus true, padcount := 8, din := List.replicate 8 0 })
      errorRow = some (0x2, 0x05, 0x47, 8, 0) := by
  decide

/-- P5: FILE_ENC straight after reset writes the 133-byte header of the empty file, and no chunk. -/
theorem test_file_enc_empty :
    after (exec .fileEnc State.reset) (fun t => (t.dout, t.chunk, t.padcount, t.rndDrawn, t.status)) =
      some (Config.magic.toList ++ [0] ++ randomBytes 0 128, 0, 0, 128, doneStatus false) := by
  show some ([] ++ (Config.magic.toList ++ [0] ++ (fileOfBytes 128 (randomBytes 0 128)).toList), _) = _
  rw [fileOfBytes_toList _ _ (by simp [randomBytes])]
  rfl

/-- E11, on LEN alone: a file shorter than the marker. -/
theorem test_file_dec_short :
    after (exec .fileDec { State.reset with len := 3, din := [0x4A, 0x43, 0x52] }) errorRow =
      some (0x2, 0x01, 0x51, 3, 0) := by
  decide

/-! ### Witnesses: for every obligation with hypotheses, a state and operands that meet all of them, clause by clause, at
the bounds of their ranges -/

/-- The reset state with one transaction pending. -/
def facing (t : HostTx) : State := { State.reset with pending := [t] }

/-- The reset state with a key. -/
def keyed : State := { State.reset with status := doneStatus true }

/-- A state in the error state that meets the invariant. -/
def failed : State := errorState 0x07 0x00000002 State.reset

/-- A header with pad-count byte `pc` and a zero salt. -/
def headerBytes (pc : Byte) : List Byte := Config.magic.toList ++ pc :: List.replicate 128 0

theorem headerBytes_take (pc : Byte) (rest : List Byte) : (headerBytes pc ++ rest).take 4 = Config.magic.toList := by
  simp [headerBytes]

theorem headerBytes_length (pc : Byte) : (headerBytes pc).length = 133 := by simp [headerBytes]

theorem headerBytes_pad (pc : Byte) (rest : List Byte) : (headerBytes pc ++ rest).getD 4 0 = pc := by
  simp [headerBytes, List.getD_eq_getElem?_getD]

/-- Four bytes that are not MAGIC, whatever MAGIC is. -/
def notMagic : List Byte := Config.magic.toList.map fun b => ~~~b

theorem notMagic_length : notMagic.length = 4 := by simp [notMagic]

theorem notMagic_ne : notMagic ≠ Config.magic.toList := by
  intro h
  have h0 := congrArg (fun l => l.getD 0 0) h
  simp [notMagic, List.getD_eq_getElem?_getD] at h0

theorem notMagic_take : notMagic.take 4 = notMagic := by simp [notMagic]

theorem witness_IllegalWordsRaiseIllegalCommand :
    ∃ (s : State) (w : Word) (rest : List HostTx),
      s.pending = .memWrite 0x000 4 w :: rest ∧ s.status.err = false ∧ ∀ i, w ≠ encode i :=
  ⟨facing (scriptCmdw 0x00000110), 0x00000110, [], rfl, rfl, by intro i; cases i <;> decide⟩

theorem witness_StepRunsTheDecodedCommand :
    ∃ (s : State) (w : Word) (i : Instr) (rest : List HostTx),
      s.pending = .memWrite 0x000 4 w :: rest ∧ decode w = .ok i :=
  ⟨facing (scriptCmd .fileDec), 0x00000051, .fileDec, [], rfl, rfl⟩

theorem witness_IdleStepChangesNothing : ∃ s : State, s.pending = [] := ⟨State.reset, rfl⟩

theorem witness_OtherAccessesAreRefused :
    (∃ (s : State) (rest : List HostTx), ¬(2 = 4 ∧ 0 % 4 = 0 ∧ 0 ≤ 0x1FC) ∧ s.pending = .memRead 0 2 :: rest) ∧
    (∃ (s : State) (rest : List HostTx), ¬(4 = 4 ∧ 3 % 4 = 0 ∧ 3 ≤ 0x1FC) ∧ s.pending = .memRead 3 4 :: rest) ∧
    (∃ (s : State) (v : Word) (rest : List HostTx),
      ¬(4 = 4 ∧ 0x200 % 4 = 0 ∧ 0x200 ≤ 0x1FC) ∧ s.pending = .memWrite 0x200 4 v :: rest) :=
  ⟨⟨facing (.memRead 0 2), [], by decide, rfl⟩, ⟨facing (.memRead 3 4), [], by decide, rfl⟩,
    ⟨facing (.memWrite 0x200 4 0), 0, [], by decide, rfl⟩⟩

theorem witness_WindowMapMatchesTheOffsets :
    (0 % 4 = 0 ∧ 0 ≤ 0x1FC ∧ Reg.offset .cmd = 0) ∧ (0x1FC % 4 = 0 ∧ 0x1FC ≤ 0x1FC ∧ Reg.offset (.key 63) = 0x1FC) := by
  decide

theorem witness_RegisterAccessesAnswer :
    (∃ (s : State) (rest : List HostTx), s.pending = .memRead (Reg.offset .status) 4 :: rest) ∧
    (∃ (s : State) (v : Word) (rest : List HostTx),
      s.pending = .memWrite (Reg.offset (.key 63)) 4 v :: rest ∧ (Reg.key 63) ≠ .cmd) :=
  ⟨⟨facing (scriptRd .status), [], rfl⟩, ⟨facing (scriptWr (.key 63) 7), 7, [], rfl, by decide⟩⟩

theorem witness_RegisterWritesLeaveTheRest :
    (∃ r r' : Reg, r' ≠ r) ∧ (∃ r : Reg, ∀ j, r ≠ .key j) :=
  ⟨⟨.lenLo, .lenHi, by decide⟩, ⟨.salt 31, by decide⟩⟩

theorem witness_StreamPortsAreFifo :
    (∃ (s : State) (a : List Byte) (rest : List HostTx), s.pending = .push a :: rest) ∧
    (∃ (s : State) (n : Nat) (rest : List HostTx), s.pending = .pop n :: rest ∧ n ≤ s.dout.length) ∧
    (∃ (s : State) (n : Nat) (rest : List HostTx), s.pending = .pop n :: rest ∧ s.dout.length < n) :=
  ⟨⟨facing (.push [1]), [1], [], rfl⟩,
    ⟨{ facing (.pop 2) with dout := [1, 2] }, 2, [], rfl, by decide⟩,
    ⟨{ facing (.pop 3) with dout := [1, 2] }, 3, [], rfl, by decide⟩⟩

theorem witness_ScriptsLoadTheOperands :
    (∃ (s : State) (n : DWord) (rest : List HostTx), s.pending = scriptSetLen n ++ rest) ∧
    (∃ (s : State) (n : DWord) (rest : List HostTx), s.pending = scriptSetChunk n ++ rest) ∧
    (∃ (s : State) (b : List Byte) (rest : List HostTx),
      b.length = 1 ∧ 1 ≤ b.length ∧ b.length ≤ 256 ∧ s.pending = scriptLoadKey b ++ rest) ∧
    (∃ (s : State) (b : List Byte) (rest : List HostTx),
      b.length = 256 ∧ 1 ≤ b.length ∧ b.length ≤ 256 ∧ s.pending = scriptLoadKey b ++ rest) :=
  ⟨⟨{ State.reset with pending := scriptSetLen 5 ++ [] }, 5, [], rfl⟩,
    ⟨{ State.reset with pending := scriptSetChunk 5 ++ [] }, 5, [], rfl⟩,
    ⟨{ State.reset with pending := scriptLoadKey [1] ++ [] }, [1], [], rfl, by decide, by decide, rfl⟩,
    ⟨{ State.reset with pending := scriptLoadKey (upFrom 0 256) ++ [] }, upFrom 0 256, [],
      upFrom_length 0 256, by rw [upFrom_length]; decide, by rw [upFrom_length], rfl⟩⟩

theorem witness_HardwareResetRestoresResetState :
    ∃ (s : State) (rest : List HostTx), s.pending = .hardReset :: rest ∧ s.status.err = true :=
  ⟨{ failed with pending := [.hardReset] }, [], rfl, rfl⟩

theorem witness_NopSetsDoneOnly :
    (∃ s : State, s.Idle ∧ s.status.err = false) ∧ (∃ s : State, s.Idle ∧ s.status.err = true) :=
  ⟨⟨State.reset, ⟨rfl, rfl⟩, rfl⟩, ⟨failed, ⟨rfl, rfl⟩, rfl⟩⟩

theorem witness_Inv_reset : State.reset.Inv :=
  ⟨⟨rfl, rfl⟩, ⟨fun h => (nomatch h), fun _ => ⟨rfl, rfl⟩⟩, fun _ => rfl⟩

theorem witness_Inv_failed : failed.Inv :=
  ⟨⟨rfl, rfl⟩, ⟨fun _ => by decide, fun h => nomatch h⟩, fun _ => rfl⟩

/-- A state with a key meets the invariant too. -/
theorem witness_Inv_keyed : keyed.Inv :=
  ⟨⟨rfl, rfl⟩, ⟨fun h => (nomatch h), fun _ => ⟨rfl, rfl⟩⟩, fun h => nomatch h⟩

theorem witness_IrqFollowsStatusAndEnables : ∃ s : State, s.Inv := ⟨failed, witness_Inv_failed⟩

theorem witness_FirstFailingCheckIsReported :
    ∃ (i : Instr) (s : State) (code : Byte), s.status.err = false ∧ firstFailure i s = some code :=
  ⟨.chunkDecLast, { keyed with padcount := 8 }, 0x05, rfl, by decide⟩

theorem witness_CommandsCompleteWhenNoCheckFails :
    ∃ (i : Instr) (s : State), s.status.err = false ∧ firstFailure i s = none :=
  ⟨.chunkDecLast, { keyed with padcount := 7, din := List.replicate 8 0 }, rfl, by decide⟩

theorem witness_ErrorStateIgnoresCommands :
    ∃ (s : State) (w : Word) (rest : List HostTx),
      s.pending = .memWrite 0x000 4 w :: rest ∧ s.status.err = true ∧ w ≠ 0x00000001 :=
  ⟨{ failed with pending := [scriptCmd .hash] }, 0x00000010, [], rfl, rfl, by decide⟩

/-- A read of STATUS is a step out of the error state's own. -/
theorem witness_OnlyResetLeavesTheErrorState : ∃ s t : State, s.status.err = true ∧ step s = .next t :=
  ⟨{ failed with pending := [scriptRd .status] }, _, rfl, rfl⟩

theorem witness_MixSwapUsesValuesBeforeTheStep :
    (((8 : Fin 32), (2 : Fin 32)) ∈ [((8 : Fin 32), (2 : Fin 32)), (4, 1)] ∧
      (15 &&& 8 ≠ 0 ∧ 7 = 15 ^^^ 8) ∧ (16 ≤ 18 ∧ 18 &&& 2 ≠ 0 ∧ 16 = 18 ^^^ 2)) ∧
    (((4 : Fin 32), (1 : Fin 32)) ∈ [((8 : Fin 32), (2 : Fin 32)), (4, 1)] ∧
      (4 &&& 4 ≠ 0 ∧ 0 = 4 ^^^ 4) ∧ (16 ≤ 31 ∧ 31 &&& 1 ≠ 0 ∧ 30 = 31 ^^^ 1)) := by
  decide

/-- Messages at the bound of one block: every block number below the count is one of the loop. -/
theorem witness_HashRunsTheStatedRounds :
    (0 < (pad (List.replicate 31 0x61)).length / 32 ∧ ¬1 < (pad (List.replicate 31 0x61)).length / 32) ∧
    1 < (pad (List.replicate 32 0x61)).length / 32 ∧ (3 : Fin 32).val ≥ 3 := by
  decide

theorem witness_HashCommandWritesDigest :
    (∃ s : State, s.status.err = false ∧ s.din.length < s.len.toNat) ∧
    (∃ s : State, s.status.err = false ∧ s.len.toNat ≤ s.din.length) :=
  ⟨⟨{ State.reset with len := 1 }, rfl, by decide⟩, ⟨{ State.reset with len := 1, din := [0] }, rfl, by decide⟩⟩

theorem witness_StreamRunsTheStatedSteps :
    ∃ key data : List Byte, key ≠ [] ∧ 255 < 256 ∧ 0 < data.length := ⟨[0], [0], by decide, by decide, by decide⟩

theorem witness_KeyScheduleReadsFirst256Bytes : ∃ key : List Byte, 256 ≤ key.length :=
  ⟨upFrom 0 256, by rw [upFrom_length]⟩

theorem witness_StreamTransformIsItsOwnInverse : ∃ key : List Byte, key ≠ [] := ⟨[0], by decide⟩

theorem witness_StrmCommandTransforms :
    (∃ s : State, s.status.err = false ∧ (s.klen.toNat = 0 ∨ 256 < s.klen.toNat) ∧ s.klen.toNat = 0) ∧
    (∃ s : State, s.status.err = false ∧ (s.klen.toNat = 0 ∨ 256 < s.klen.toNat) ∧ s.klen.toNat = 257) ∧
    (∃ s : State, s.status.err = false ∧ 1 ≤ s.klen.toNat ∧ s.klen.toNat ≤ 256 ∧ s.din.length < s.len.toNat) ∧
    (∃ s : State, s.status.err = false ∧ 1 ≤ s.klen.toNat ∧ s.klen.toNat ≤ 256 ∧ s.len.toNat ≤ s.din.length) :=
  ⟨⟨State.reset, rfl, by decide, by decide⟩, ⟨{ State.reset with klen := 257 }, rfl, by decide, by decide⟩,
    ⟨{ State.reset with klen := 1, len := 1 }, rfl, by decide, by decide, by decide⟩,
    ⟨{ State.reset with klen := 256, len := 1, din := [0] }, rfl, by decide, by decide, by decide⟩⟩

theorem witness_BlockCipherIsAnInversePair : ∃ key block : List Byte, key.length = 16 ∧ block.length = 8 :=
  ⟨List.replicate 16 0, List.replicate 8 0, rfl, rfl⟩

theorem witness_BlockFunctionsRunTheStatedIterations : ∃ key block : List Byte, key.length = 16 ∧ block.length = 8 :=
  ⟨List.replicate 16 0xFF, List.replicate 8 0x80, rfl, rfl⟩

/-- For BlkEncCommandEnciphers and BlkDecCommandDeciphers. -/
theorem witness_BlkCommands :
    (∃ s : State, s.status.err = false ∧ (s.klen.toNat ≠ 16 ∨ s.len.toNat ≠ 8) ∧ s.klen.toNat = 15) ∧
    (∃ s : State, s.status.err = false ∧ (s.klen.toNat ≠ 16 ∨ s.len.toNat ≠ 8) ∧ s.len.toNat = 7) ∧
    (∃ s : State, s.status.err = false ∧ s.klen.toNat = 16 ∧ s.len.toNat = 8 ∧ s.din.length < 8) ∧
    (∃ s : State, s.status.err = false ∧ s.klen.toNat = 16 ∧ s.len.toNat = 8 ∧ 8 ≤ s.din.length) :=
  ⟨⟨{ State.reset with klen := 15, len := 8 }, rfl, by decide, by decide⟩,
    ⟨{ State.reset with klen := 16, len := 7 }, rfl, by decide, by decide⟩,
    ⟨{ State.reset with klen := 16, len := 8, din := List.replicate 7 0 }, rfl, by decide, by decide, by decide⟩,
    ⟨{ State.reset with klen := 16, len := 8, din := List.replicate 8 0 }, rfl, by decide, by decide, by decide⟩⟩

theorem witness_PadCountReachesTheNextMultiple : ∃ L M : Nat, L ≤ M ∧ M % 8 = 0 := ⟨9, 16, by decide, by decide⟩

theorem witness_ChunkDecryptionInvertsEncryption : ∃ x : List Byte, x.length = 8 := ⟨List.replicate 8 0, rfl⟩

theorem witness_SaltGenDrawsTheSalt : ∃ s : State, s.status.err = false := ⟨State.reset, rfl⟩

theorem witness_KdfDerivesTheKey :
    (∃ s : State, s.status.err = false ∧ 7 < s.padcount.toNat) ∧
    (∃ s : State, s.status.err = false ∧ s.padcount.toNat ≤ 7 ∧ s.din.length < s.pwlen.toNat) ∧
    (∃ s : State, s.status.err = false ∧ s.padcount.toNat ≤ 7 ∧ s.pwlen.toNat ≤ s.din.length) :=
  ⟨⟨{ State.reset with padcount := 8 }, rfl, by decide⟩,
    ⟨{ State.reset with padcount := 7, pwlen := 1 }, rfl, by decide, by decide⟩,
    ⟨{ State.reset with padcount := 7, pwlen := 1, din := [0x70] }, rfl, by decide, by decide⟩⟩

theorem witness_HdrPutWritesTheHeader :
    (∃ s : State, s.status.err = false ∧ 7 < s.padcount.toNat) ∧
    (∃ s : State, s.status.err = false ∧ s.padcount.toNat ≤ 7) :=
  ⟨⟨{ State.reset with padcount := 8 }, rfl, by decide⟩, ⟨{ State.reset with padcount := 7 }, rfl, by decide⟩⟩

theorem witness_HdrGetReadsTheHeader :
    (∃ s : State, s.status.err = false ∧ 4 ≤ s.din.length ∧ s.din.take 4 ≠ Config.magic.toList) ∧
    (∃ s : State, s.status.err = false ∧ (s.din.length < 4 ∨ s.din.take 4 = Config.magic.toList) ∧ s.din.length < 133 ∧
      s.din.length = 3) ∧
    (∃ s : State, s.status.err = false ∧ (s.din.length < 4 ∨ s.din.take 4 = Config.magic.toList) ∧ s.din.length < 133 ∧
      s.din.length = 4) ∧
    (∃ s : State, s.status.err = false ∧ s.din.take 4 = Config.magic.toList ∧ 133 ≤ s.din.length ∧
      7 < (s.din.getD 4 0).toNat) ∧
    (∃ s : State, s.status.err = false ∧ s.din.take 4 = Config.magic.toList ∧ 133 ≤ s.din.length ∧
      (s.din.getD 4 0).toNat ≤ 7) := by
  refine ⟨⟨{ State.reset with din := notMagic }, rfl, ?_, ?_⟩, ⟨{ State.reset with din := [1, 2, 3] }, rfl, ?_⟩,
    ⟨{ State.reset with din := Config.magic.toList }, rfl, ?_⟩, ⟨{ State.reset with din := headerBytes 8 ++ [] }, rfl, ?_⟩,
    ⟨{ State.reset with din := headerBytes 7 ++ [] }, rfl, ?_⟩⟩
  · simp [notMagic_length]
  · exact fun h => notMagic_ne (notMagic_take.symm.trans h)
  · decide
  · simp
  · exact ⟨headerBytes_take 8 [], by simp [headerBytes_length], by rw [headerBytes_pad]; decide⟩
  · exact ⟨headerBytes_take 7 [], by simp [headerBytes_length], by rw [headerBytes_pad]; decide⟩

/-- For ChunkEncCommandEncrypts and ChunkDecCommandDecrypts. -/
theorem witness_ChunkCommands :
    (∃ s : State, s.status.err = false ∧ s.status.kvalid = false) ∧
    (∃ s : State, s.status.err = false ∧ s.status.kvalid = true ∧ s.din.length < 8) ∧
    (∃ s : State, s.status.err = false ∧ s.status.kvalid = true ∧ 8 ≤ s.din.length) :=
  ⟨⟨State.reset, rfl, rfl⟩, ⟨{ keyed with din := List.replicate 7 0 }, rfl, rfl, by decide⟩,
    ⟨{ keyed with din := List.replicate 8 0 }, rfl, rfl, by decide⟩⟩

/-- For CHUNK_ENC_LAST. -/
theorem witness_ChunkEncLastPadsAndEncrypts :
    (∃ s : State, s.status.err = false ∧ s.status.kvalid = false) ∧
    (∃ s : State, s.status.err = false ∧ s.status.kvalid = true ∧ 7 < s.padcount.toNat) ∧
    (∃ s : State, s.status.err = false ∧ s.status.kvalid = true ∧ s.padcount.toNat ≤ 7 ∧
      s.din.length < 8 - s.padcount.toNat) ∧
    (∃ s : State, s.status.err = false ∧ s.status.kvalid = true ∧ s.padcount.toNat ≤ 7 ∧
      8 - s.padcount.toNat ≤ s.din.length) :=
  ⟨⟨State.reset, rfl, rfl⟩, ⟨{ keyed with padcount := 8 }, rfl, rfl, by decide⟩,
    ⟨{ keyed with padcount := 7 }, rfl, rfl, by decide, by decide⟩,
    ⟨{ keyed with padcount := 7, din := [0x49] }, rfl, rfl, by decide, by decide⟩⟩

/-- For CHUNK_DEC_LAST. -/
theorem witness_ChunkDecLastDropsTheFiller :
    (∃ s : State, s.status.err = false ∧ s.status.kvalid = false) ∧
    (∃ s : State, s.status.err = false ∧ s.status.kvalid = true ∧ 7 < s.padcount.toNat) ∧
    (∃ s : State, s.status.err = false ∧ s.status.kvalid = true ∧ s.padcount.toNat ≤ 7 ∧ s.din.length < 8) ∧
    (∃ s : State, s.status.err = false ∧ s.status.kvalid = true ∧ s.padcount.toNat ≤ 7 ∧ 8 ≤ s.din.length) :=
  ⟨⟨State.reset, rfl, rfl⟩, ⟨{ keyed with padcount := 8 }, rfl, rfl, by decide⟩,
    ⟨{ keyed with padcount := 7, din := List.replicate 7 0 }, rfl, rfl, by decide, by decide⟩,
    ⟨{ keyed with padcount := 7, din := List.replicate 8 0 }, rfl, rfl, by decide, by decide⟩⟩

/-- For FILE_ENC, and for its equality with the step commands: a 9-byte plaintext under a 1-byte password. -/
theorem witness_FileEncProducesTheFile :
    (∃ s : State, s.status.err = false ∧ s.din.length < s.pwlen.toNat + s.len.toNat) ∧
    (∃ s : State, s.status.err = false ∧ s.pwlen.toNat + s.len.toNat ≤ s.din.length) :=
  ⟨⟨{ State.reset with pwlen := 1, len := 9, din := List.replicate 9 0 }, rfl, by decide⟩,
    ⟨{ State.reset with pwlen := 1, len := 9, din := List.replicate 10 0 }, rfl, by decide⟩⟩

theorem witness_FileEncEqualsTheStepCommands :
    ∃ s : State, s.status.err = false ∧ s.pwlen.toNat + s.len.toNat ≤ s.din.length :=
  witness_FileEncProducesTheFile.2

/-- A state that holds the password byte 0x70 and the file `f`. -/
def decrypting (f : List Byte) (n : DWord) : State := { State.reset with pwlen := 1, len := n, din := 0x70 :: f }

/-- The file that FILE_DEC's statement reads off such a state. -/
def fileOf (s : State) : List Byte := (s.din.drop s.pwlen.toNat).take s.len.toNat

theorem fileOf_decrypting (f : List Byte) (n : DWord) (h : f.length = n.toNat) : fileOf (decrypting f n) = f := by
  show f.take n.toNat = f
  rw [← h, List.take_length]

theorem decrypting_enough (f : List Byte) (n : DWord) (h : f.length = n.toNat) :
    (decrypting f n).pwlen.toNat + (decrypting f n).len.toNat ≤ (decrypting f n).din.length := by
  show 1 + n.toNat ≤ f.length + 1
  omega

/-- For FILE_DEC, its IOFailure clause and each clause of a file that is there: too short for the marker, a wrong marker,
ending inside the header, a broken body, a pad-count byte of 8, and the bare header. -/
theorem witness_FileDecRecoversTheContent :
    (∃ s : State, s.status.err = false ∧ s.din.length < s.pwlen.toNat + s.len.toNat) ∧
    (∃ s : State, s.status.err = false ∧ s.pwlen.toNat + s.len.toNat ≤ s.din.length ∧ (fileOf s).length < 4) ∧
    (∃ s : State, s.status.err = false ∧ s.pwlen.toNat + s.len.toNat ≤ s.din.length ∧
      (fileOf s).take 4 ≠ Config.magic.toList ∧ (fileOf s).length = 4) ∧
    (∃ s : State, s.status.err = false ∧ s.pwlen.toNat + s.len.toNat ≤ s.din.length ∧ 4 ≤ (fileOf s).length ∧
      (fileOf s).take 4 = Config.magic.toList ∧ (fileOf s).length < 133) ∧
    (∃ s : State, s.status.err = false ∧ s.pwlen.toNat + s.len.toNat ≤ s.din.length ∧ 4 ≤ (fileOf s).length ∧
      (fileOf s).take 4 = Config.magic.toList ∧ ((fileOf s).length - 133) % 8 ≠ 0) ∧
    (∃ s : State, s.status.err = false ∧ s.pwlen.toNat + s.len.toNat ≤ s.din.length ∧
      (fileOf s).take 4 = Config.magic.toList ∧ 133 ≤ (fileOf s).length ∧ ((fileOf s).length - 133) % 8 = 0 ∧
      7 < ((fileOf s).getD 4 0).toNat) ∧
    (∃ s : State, s.status.err = false ∧ s.pwlen.toNat + s.len.toNat ≤ s.din.length ∧
      (fileOf s).take 4 = Config.magic.toList ∧ 133 ≤ (fileOf s).length ∧ ((fileOf s).length - 133) % 8 = 0 ∧
      ((fileOf s).getD 4 0).toNat ≤ 7) := by
  have l3 : ([1, 2, 3] : List Byte).length = (3 : DWord).toNat := rfl
  have lm : notMagic.length = (4 : DWord).toNat := notMagic_length
  have l4 : Config.magic.toList.length = (4 : DWord).toNat := by simp
  have l134 : (headerBytes 7 ++ [0]).length = (134 : DWord).toNat := by simp [headerBytes_length]
  have l8 : (headerBytes 8 ++ []).length = (133 : DWord).toNat := by simp [headerBytes_length]
  have l7 : (headerBytes 7 ++ []).length = (133 : DWord).toNat := by simp [headerBytes_length]
  refine ⟨⟨{ State.reset with len := 1 }, rfl, by decide⟩, ⟨decrypting [1, 2, 3] 3, rfl, decrypting_enough _ _ l3, ?_⟩,
    ⟨decrypting notMagic 4, rfl, decrypting_enough _ _ lm, ?_⟩, ⟨decrypting Config.magic.toList 4, rfl, decrypting_enough _ _ l4, ?_⟩,
    ⟨decrypting (headerBytes 7 ++ [0]) 134, rfl, decrypting_enough _ _ l134, ?_⟩,
    ⟨decrypting (headerBytes 8 ++ []) 133, rfl, decrypting_enough _ _ l8, ?_⟩,
    ⟨decrypting (headerBytes 7 ++ []) 133, rfl, decrypting_enough _ _ l7, ?_⟩⟩
  · rw [fileOf_decrypting _ _ l3]; decide
  · rw [fileOf_decrypting _ _ lm]
    exact ⟨fun h => notMagic_ne (notMagic_take.symm.trans h), notMagic_length⟩
  · rw [fileOf_decrypting _ _ l4]; simp
  · rw [fileOf_decrypting _ _ l134]
    exact ⟨by rw [l134]; decide, headerBytes_take 7 [0], by rw [l134]; decide⟩
  · rw [fileOf_decrypting _ _ l8]
    exact ⟨headerBytes_take 8 [], by rw [l8]; decide, by rw [l8]; decide, by rw [headerBytes_pad]; decide⟩
  · rw [fileOf_decrypting _ _ l7]
    exact ⟨headerBytes_take 7 [], by rw [l7]; decide, by rw [l7]; decide, by rw [headerBytes_pad]; decide⟩

/-- The first half of the round trip's premises, at both ends of the plaintext's range that a test can write down. -/
theorem witness_FileRoundTrip :
    (∃ (pw d : List Byte) (s : State), s.status.err = false ∧ pw.length < 2 ^ 32 ∧ d.length ≤ 2 ^ 64 - 141 ∧
      s.pwlen.toNat = pw.length ∧ s.len.toNat = d.length ∧ s.din = pw ++ d ∧ d = []) ∧
    (∃ (pw d : List Byte) (s : State), s.status.err = false ∧ pw.length < 2 ^ 32 ∧ d.length ≤ 2 ^ 64 - 141 ∧
      s.pwlen.toNat = pw.length ∧ s.len.toNat = d.length ∧ s.din = pw ++ d ∧ d.length = 9) :=
  ⟨⟨[], [], State.reset, rfl, by decide, by decide, rfl, rfl, rfl, rfl⟩,
    ⟨[0x70], List.replicate 9 0, { State.reset with pwlen := 1, len := 9, din := 0x70 :: List.replicate 9 0 },
      rfl, by decide, by decide, rfl, rfl, rfl, rfl⟩⟩

/-- The second half of its premises: a state that holds the password and any file whose length LEN can hold. -/
theorem witness_FileRoundTrip_second (f : List Byte) (n : DWord) (h : f.length = n.toNat) :
    ∃ t : State, t.status.err = false ∧ t.pwlen.toNat = [(0x70 : Byte)].length ∧ t.len.toNat = f.length ∧
      t.din = [0x70] ++ f :=
  ⟨decrypting f n, rfl, rfl, h.symm, rfl⟩

theorem witness_EveryStepKeepsTheInvariant : ∃ s t : State, s.Inv ∧ step s = .next t :=
  ⟨failed, failed, witness_Inv_failed, rfl⟩

theorem witness_NoCommandSeesEarlierWorkingState :
    (∃ (i : Instr) (s : State), s.status.err = false ∨ i = .softReset) ∧
    (∃ (i : Instr) (s : State), (s.status.err = false ∨ i = .softReset) ∧ s.status.err = true) :=
  ⟨⟨.hash, State.reset, .inl rfl⟩, ⟨.softReset, failed, .inr rfl, rfl⟩⟩

theorem witness_CommandsLeaveTheOperandRegisters :
    ∃ (i : Instr) (s t : State), i ≠ .softReset ∧ exec i s = .next t := ⟨.nop, State.reset, _, by decide, rfl⟩

theorem witness_ResultRegistersHaveTheirWriters :
    ∃ (i : Instr) (s t : State), i ≠ .softReset ∧ exec i s = .next t ∧ i ≠ .hash ∧
      i ∉ [Instr.saltGen, .hdrGet, .fileEnc, .fileDec] ∧ i ∉ [Instr.hdrGet, .fileEnc, .fileDec] ∧
      i ∉ [Instr.kdf, .chunkEnc, .chunkDec, .chunkEncLast, .chunkDecLast, .fileEnc, .fileDec] ∧
      i ∉ [Instr.kdf, .fileEnc, .fileDec] ∧ t.status.err = false :=
  ⟨.nop, State.reset, _, by decide, rfl, by decide, by decide, by decide, by decide, by decide, rfl⟩

theorem witness_CommandsMoveTheStatedBytes :
    ∃ (i : Instr) (s : State), i ≠ .softReset ∧ s.status.err = false ∧ firstFailure i s = none :=
  ⟨.fileEnc, { State.reset with pwlen := 1, len := 9, din := List.replicate 10 0 }, by decide, rfl, by decide⟩

end Sys2Proof.Tests
end

section
/-!
PROOFS of the scope family (00_scope.md, rules R14, R63, R113): what a command with no failing check does.
-/

namespace Sys2Proof.Machine

/-- No failing row of rule R113's table is no failing check of the command. -/
theorem firstFailure_eq_none_iff (i : Instr) (s : State) :
    firstFailure i s = none ↔ firstError (checksOf i (accept s)) = none := by
  rw [firstFailure_eq, Option.map_eq_none_iff]

/-- With no failing check every command, SOFT_RESET among them, is acceptance, body, completion. -/
theorem exec_completed {i : Instr} {s : State} (he : s.status.err = false) (hf : firstFailure i s = none) :
    exec i s = .next (complete (bodyOf i (accept s))) := by
  by_cases hi : i = .softReset
  · subst hi
    exact exec_softReset s
  · rw [exec_eq_issue i s hi, issue_completed he ((firstFailure_eq_none_iff i s).mp hf)]

/-- No body raises ERR: SOFT_RESET's clears it, every other leaves it as it was. -/
theorem bodyOf_err_clear (i : Instr) {s : State} (he : s.status.err = false) : (bodyOf i s).status.err = false := by
  by_cases hi : i = .softReset
  · subst hi
    rfl
  · rw [bodyOf_err i s hi, he]

/-- Settles O21: such a command is acceptance, body, completion (`exec_completed`), and no body raises ERR
(`bodyOf_err_clear`). -/
theorem commandsCompleteWhenNoCheckFails : Obligations.CommandsCompleteWhenNoCheckFails := by
  intro i s he hf
  have hbody : (bodyOf i (accept s)).status.err = false := bodyOf_err_clear i he
  exact ⟨_, exec_completed he hf, rfl, hbody, rfl, rfl⟩

end Sys2Proof.Machine
end

section
/-!
PROOFS of the state family (10_state.md): the register window (rules R17 to R31, R44, R121).
-/

namespace Sys2Proof.Machine

/-- A 32-bit access at a register's offset reaches that register. -/
@[simp] theorem accessReg_offset (r : Reg) : accessReg r.offset 4 = some r := by
  obtain ⟨haligned, -⟩ := r.offset_aligned
  rw [accessReg, if_pos ⟨rfl, haligned⟩, regOfIndex_offset]

/-- An access reaches a register only 32 bits wide and at the register's offset. -/
theorem accessReg_eq_some_iff {off width : Nat} {r : Reg} :
    accessReg off width = some r ↔ width = 4 ∧ off = r.offset := by
  constructor
  · intro h
    unfold accessReg at h
    split at h
    · rename_i haccess
      obtain ⟨hwidth, haligned⟩ := haccess
      have hoffset := offset_of_regOfIndex h
      exact ⟨hwidth, by omega⟩
    · cases h
  · rintro ⟨rfl, rfl⟩
    exact accessReg_offset r

/-- Every aligned offset of the window is a register's. -/
theorem exists_reg_offset {off : Nat} (haligned : off % 4 = 0) (hwindow : off ≤ 0x1FC) : ∃ r : Reg, r.offset = off := by
  obtain ⟨r, hr⟩ := Option.isSome_iff_exists.mp (regOfIndex_isSome ⟨off / 4, by omega⟩)
  have hoffset := offset_of_regOfIndex hr
  exact ⟨r, by simp only at hoffset; omega⟩

/-- Settles O7: `accessReg` inverts the offset column (`accessReg_eq_some_iff`), which covers the window
(`exists_reg_offset`). -/
theorem windowMapMatchesTheOffsets : Obligations.WindowMapMatchesTheOffsets :=
  ⟨fun _ _ _ => accessReg_eq_some_iff, fun _ => exists_reg_offset⟩

/-! What a register write leaves unchanged. -/

@[simp] theorem regWrite_errcode (r : Reg) (v : Word) (s : State) : (regWrite r v s).errcode = s.errcode := by
  cases r <;> rfl
@[simp] theorem regWrite_errinfo (r : Reg) (v : Word) (s : State) : (regWrite r v s).errinfo = s.errinfo := by
  cases r <;> rfl
@[simp] theorem regWrite_kmat (r : Reg) (v : Word) (s : State) : (regWrite r v s).kmat = s.kmat := by cases r <;> rfl
@[simp] theorem regWrite_work (r : Reg) (v : Word) (s : State) : (regWrite r v s).work = s.work := by cases r <;> rfl
@[simp] theorem regWrite_din (r : Reg) (v : Word) (s : State) : (regWrite r v s).din = s.din := by cases r <;> rfl
@[simp] theorem regWrite_dout (r : Reg) (v : Word) (s : State) : (regWrite r v s).dout = s.dout := by cases r <;> rfl
@[simp] theorem regWrite_rndDrawn (r : Reg) (v : Word) (s : State) : (regWrite r v s).rndDrawn = s.rndDrawn := by
  cases r <;> rfl
@[simp] theorem regWrite_pending (r : Reg) (v : Word) (s : State) : (regWrite r v s).pending = s.pending := by
  cases r <;> rfl
@[simp] theorem regWrite_replies (r : Reg) (v : Word) (s : State) : (regWrite r v s).replies = s.replies := by
  cases r <;> rfl

/-- Only a write to a KEY word changes KEY. -/
theorem regWrite_key_of_ne {r : Reg} (h : ∀ j, r ≠ .key j) (v : Word) (s : State) : (regWrite r v s).key = s.key := by
  cases r with
  | key j => exact absurd rfl (h j)
  | _ => rfl

/-- Only a write to STATUS changes STATUS. -/
theorem regWrite_status_of_ne {r : Reg} (h : r ≠ .status) (v : Word) (s : State) :
    (regWrite r v s).status = s.status := by
  cases r with
  | status => exact absurd rfl h
  | _ => rfl

/-- A register write leaves what every other register reads. The registers that share storage with another one are the
halves of LEN and CHUNK and the words of SALT. -/
theorem regRead_regWrite_of_ne {r r' : Reg} (h : r' ≠ r) (v : Word) (s : State) :
    regRead r' (regWrite r v s) = regRead r' s := by
  cases r with
  | cmd | errcode | errinfo | id | reserved | digest => rfl
  | status =>
    cases r' with
    | status => exact absurd rfl h
    | _ => rfl
  | ien =>
    cases r' with
    | ien => exact absurd rfl h
    | _ => rfl
  | lenLo =>
    cases r' with
    | lenLo => exact absurd rfl h
    | lenHi => exact hiHalf_ofHalves _ _
    | _ => rfl
  | lenHi =>
    cases r' with
    | lenLo => exact loHalf_ofHalves _ _
    | lenHi => exact absurd rfl h
    | _ => rfl
  | pwlen =>
    cases r' with
    | pwlen => exact absurd rfl h
    | _ => rfl
  | klen =>
    cases r' with
    | klen => exact absurd rfl h
    | _ => rfl
  | padcount =>
    cases r' with
    | padcount => exact absurd rfl h
    | _ => rfl
  | chunkLo =>
    cases r' with
    | chunkLo => exact absurd rfl h
    | chunkHi => exact hiHalf_ofHalves _ _
    | _ => rfl
  | chunkHi =>
    cases r' with
    | chunkLo => exact loHalf_ofHalves _ _
    | chunkHi => exact absurd rfl h
    | _ => rfl
  | salt j =>
    cases r' with
    | salt j' =>
      have hj : j'.val ≠ j.val := fun e => h (congrArg Reg.salt (Fin.ext e))
      exact (fileWord_fileSetWord s.salt j.val j'.val v (by omega)).trans (if_neg hj)
    | _ => rfl
  | key => cases r' <;> rfl

/-- Settles O10: the other registers by `regRead_regWrite_of_ne`, what the host cannot read field by field. -/
theorem registerWritesLeaveTheRest : Obligations.RegisterWritesLeaveTheRest := fun s v r =>
  ⟨fun _ h => regRead_regWrite_of_ne h v s, regWrite_kmat r v s, regWrite_work r v s, regWrite_din r v s,
    regWrite_dout r v s, regWrite_rndDrawn r v s, regWrite_pending r v s, regWrite_replies r v s,
    fun h => regWrite_key_of_ne h v s⟩

/-! A host write to STATUS. -/

@[simp] theorem flagsWritten_err (v : Word) (f : Status) : (flagsWritten v f).err = f.err := by
  unfold flagsWritten; split <;> rfl
@[simp] theorem flagsWritten_kvalid (v : Word) (f : Status) : (flagsWritten v f).kvalid = f.kvalid := by
  unfold flagsWritten; split <;> rfl
@[simp] theorem flagsWritten_busy (v : Word) (f : Status) : (flagsWritten v f).busy = f.busy := by
  unfold flagsWritten; split <;> rfl
@[simp] theorem flagsWritten_done (v : Word) (f : Status) : (flagsWritten v f).done = (f.done && !v.getLsbD 0) := by
  unfold flagsWritten; cases v.getLsbD 0 <;> simp

/-- DONE is bit 0 of STATUS. -/
theorem statusWord_clear_done (f : Status) : statusWord { f with done := false } = statusWord f &&& 0xFFFFFFFE := by
  obtain ⟨d, e, k, b⟩ := f
  revert d e k b
  decide

/-- A word's bit 0, by mask and by index. -/
theorem and_one_eq_one_iff (v : Word) : v &&& 1 = 1 ↔ v.getLsbD 0 = true := by
  have hmask : v &&& 1 = (BitVec.ofBool (v.getLsbD 0)).setWidth 32 := BitVec.and_one_eq_setWidth_ofBool_getLsbD
  rw [hmask]
  cases v.getLsbD 0 <;> decide

/-- STATUS loses DONE for a 1 in bit 0, and nothing else (rule R19). -/
theorem statusWord_flagsWritten (v : Word) (f : Status) :
    statusWord (flagsWritten v f) = if v &&& 1 = 1 then statusWord f &&& 0xFFFFFFFE else statusWord f := by
  simp only [flagsWritten, and_one_eq_one_iff, ← statusWord_clear_done]
  split <;> rfl

/-- Settles O9, register by register: the narrow registers keep the low bits of the word (`setWidth_setWidth_eq_and`),
STATUS is `statusWord_flagsWritten`. -/
theorem registerReadsBackWhatWasStored : Obligations.RegisterReadsBackWhatWasStored := by
  intro s v r
  cases r with
  | status => exact statusWord_flagsWritten v s.status
  | ien => exact setWidth_setWidth_eq_and v 2 (by decide)
  | klen => exact setWidth_setWidth_eq_and v 9 (by decide)
  | padcount => exact setWidth_setWidth_eq_and v 8 (by decide)
  | lenLo | chunkLo => exact loHalf_ofHalves _ _
  | lenHi | chunkHi => exact hiHalf_ofHalves _ _
  | salt j => exact (fileWord_fileSetWord s.salt j.val j.val v (by omega)).trans (if_pos rfl)
  | _ => rfl

/-- Settles O12: no case of `regRead` names KEY, KMAT or the working state. -/
theorem secretsAreUnreadable : Obligations.SecretsAreUnreadable := by
  intro s r key kmat work
  cases r <;> rfl

/-- The interrupt line on flags: the two enable bits against bits 0 and 1 of STATUS (rule R121). -/
theorem irqBits_iff : ∀ (d e k b : Bool) (ien : BitVec 2),
    (d && ien.getLsbD 0 || e && ien.getLsbD 1) = true ↔
      statusWord ⟨d, e, k, b⟩ &&& ien.setWidth 32 &&& 3 ≠ 0 := by
  decide

/-- Settles O19: the line is `irqBits_iff`; with ERR = 1 the invariant has DONE = 0. -/
theorem irqFollowsStatusAndEnables : Obligations.IrqFollowsStatusAndEnables := by
  refine ⟨fun s => irqBits_iff _ _ s.status.kvalid s.status.busy s.ien, ?_⟩
  rintro s ⟨-, ⟨hset, -⟩, -⟩ ⟨hdone, herr⟩
  obtain ⟨-, -, hclear, -⟩ := hset herr
  simp [hclear] at hdone

end Sys2Proof.Machine
end

section
/-!
PROOFS of the state family: transactions and steps (rules R18, R44, R52, R54, R63).
-/

namespace Sys2Proof.Machine

/-- A step performs the next transaction, which is taken from the list. -/
theorem step_of_pending {s : State} {tx : HostTx} {rest : List HostTx} (h : s.pending = tx :: rest) :
    step s = perform tx { s with pending := rest } := by
  simp only [step, h]

/-- With nothing pending a step is idle. -/
theorem step_of_pending_nil {s : State} (h : s.pending = []) : step s = .next s := by
  simp only [step, h]

/-- A read at a register's offset hands over the register's value. -/
theorem perform_memRead (r : Reg) (s : State) :
    perform (.memRead r.offset 4) s = .next (s.reply (.word (regRead r s))) := by
  simp only [perform, accessReg_offset]

/-- A write at a register's offset is the host's write to that register. -/
theorem perform_memWrite (r : Reg) (v : Word) (s : State) : perform (.memWrite r.offset 4 v) s = hostWrite r v s := by
  simp only [perform, accessReg_offset]

/-- A host write to any register but CMD is the register write. -/
theorem hostWrite_of_ne_cmd {r : Reg} (h : r ≠ .cmd) (v : Word) (s : State) :
    hostWrite r v s = .next (regWrite r v s) := by
  cases r with
  | cmd => exact absurd rfl h
  | _ => rfl

/-- A word that decodes is the word of the command it decodes to. -/
theorem eq_encode_of_decode {w : Word} {i : Instr} (h : decode w = .ok i) : w = encode i := by
  unfold decode at h
  split at h
  · rename_i hzero
    exact (word_of_fields hzero).trans (encode_of_mem _ (decodeOp_mem h)).symm
  · cases h

/-- A written word that decodes is executed. -/
theorem issueWord_of_decode {w : Word} {i : Instr} (h : decode w = .ok i) (s : State) : issueWord w s = exec i s := by
  simp only [issueWord, h]

/-- Settles O4: the transaction is taken, reaches CMD and is issued. -/
theorem stepRunsTheDecodedCommand : Obligations.StepRunsTheDecodedCommand := by
  intro s w i rest hpending hdecode
  calc step s = perform (.memWrite Reg.cmd.offset 4 w) { s with pending := rest } := step_of_pending hpending
    _ = issueWord w { s with pending := rest } := perform_memWrite .cmd w _
    _ = exec i { s with pending := rest } := issueWord_of_decode hdecode _

/-- Settles O5. -/
theorem idleStepChangesNothing : Obligations.IdleStepChangesNothing := fun _ => step_of_pending_nil

/-- Settles O8: `perform_memRead`, and `perform_memWrite` with `hostWrite_of_ne_cmd`. -/
theorem registerAccessesAnswer : Obligations.RegisterAccessesAnswer := by
  refine fun s r v rest => ⟨fun hpending => ?_, fun hpending hcmd => ?_⟩
  · rw [step_of_pending hpending, perform_memRead]
    cases r <;> rfl
  · rw [step_of_pending hpending, perform_memWrite, hostWrite_of_ne_cmd hcmd]

/-- A pop of bytes that DOUT holds removes them and hands them over. -/
theorem hostPop_of_le {n : Nat} {s : State} (h : n ≤ s.dout.length) :
    hostPop n s = .next ({ s with dout := s.dout.drop n }.reply (.bytes (s.dout.take n))) :=
  if_neg (by omega)

/-- A pop of more bytes than DOUT holds is no move. -/
theorem hostPop_of_lt {n : Nat} {s : State} (h : s.dout.length < n) : hostPop n s = .refused .popUnavailable :=
  if_pos h

/-- Settles O13: a push is `hostPush`, a pop is `hostPop_of_le` or `hostPop_of_lt`. -/
theorem streamPortsAreFifo : Obligations.StreamPortsAreFifo := by
  intro s a n rest
  refine ⟨fun hpending => step_of_pending hpending, fun hpending hn => ?_, fun hpending hn => ?_⟩
  · exact (step_of_pending hpending).trans (hostPop_of_le hn)
  · exact (step_of_pending hpending).trans (hostPop_of_lt hn)

/-- Everything a pop that answers can do. -/
theorem hostPop_cases {n : Nat} {s t : State} (h : hostPop n s = .next t) :
    n ≤ s.dout.length ∧ t = { s with dout := s.dout.drop n }.reply (.bytes (s.dout.take n)) := by
  rcases Nat.lt_or_ge s.dout.length n with hn | hn
  · rw [hostPop_of_lt hn] at h
    cases h
  · rw [hostPop_of_le hn] at h
    cases h
    exact ⟨hn, rfl⟩

/-- Everything a host write that answers can do. -/
theorem hostWrite_cases {r : Reg} {v : Word} {s t : State} (h : hostWrite r v s = .next t) :
    (r = .cmd ∧ issueWord v s = .next t) ∨ (r ≠ .cmd ∧ t = regWrite r v s) := by
  by_cases hcmd : r = .cmd
  · subst hcmd
    exact .inl ⟨rfl, h⟩
  · rw [hostWrite_of_ne_cmd hcmd] at h
    cases h
    exact .inr ⟨hcmd, rfl⟩

/-- Everything a transaction that answers can do. -/
theorem perform_cases {tx : HostTx} {s t : State} (h : perform tx s = .next t) :
    (∃ r, tx = .memRead r.offset 4 ∧ t = s.reply (.word (regRead r s))) ∨
    (∃ r v, tx = .memWrite r.offset 4 v ∧ r ≠ .cmd ∧ t = regWrite r v s) ∨
    (∃ w, tx = .memWrite 0x000 4 w ∧ issueWord w s = .next t) ∨
    (∃ a, tx = .push a ∧ t = hostPush a s) ∨
    (∃ n, tx = .pop n ∧ n ≤ s.dout.length ∧ t = { s with dout := s.dout.drop n }.reply (.bytes (s.dout.take n))) ∨
    (tx = .hardReset ∧ t = hardReset s) := by
  cases tx with
  | memRead off width =>
    cases hr : accessReg off width with
    | none => simp [perform, hr] at h
    | some r =>
      obtain ⟨rfl, rfl⟩ := accessReg_eq_some_iff.mp hr
      rw [perform_memRead] at h
      cases h
      exact .inl ⟨r, rfl, rfl⟩
  | memWrite off width v =>
    cases hr : accessReg off width with
    | none => simp [perform, hr] at h
    | some r =>
      obtain ⟨rfl, rfl⟩ := accessReg_eq_some_iff.mp hr
      rw [perform_memWrite] at h
      rcases hostWrite_cases h with ⟨rfl, hissue⟩ | ⟨hcmd, rfl⟩
      · exact .inr (.inr (.inl ⟨v, rfl, hissue⟩))
      · exact .inr (.inl ⟨r, v, rfl, hcmd, rfl⟩)
  | push a =>
    cases h
    exact .inr (.inr (.inr (.inl ⟨a, rfl, rfl⟩)))
  | pop n =>
    obtain ⟨hn, rfl⟩ := hostPop_cases h
    exact .inr (.inr (.inr (.inr (.inl ⟨n, rfl, hn, rfl⟩))))
  | hardReset =>
    cases h
    exact .inr (.inr (.inr (.inr (.inr ⟨rfl, rfl⟩))))

/-- Everything a step that answers can do: idle, or perform the next transaction. -/
theorem step_cases {s t : State} (h : step s = .next t) :
    (s.pending = [] ∧ t = s) ∨ ∃ tx rest, s.pending = tx :: rest ∧ perform tx { s with pending := rest } = .next t := by
  cases hpending : s.pending with
  | nil =>
    rw [step_of_pending_nil hpending] at h
    cases h
    exact .inl ⟨rfl, rfl⟩
  | cons tx rest =>
    rw [step_of_pending hpending] at h
    exact .inr ⟨tx, rest, rfl, h⟩

/-- Everything a write of a word to CMD can do: SOFT_RESET by its own word, nothing in the error state, error entry with a
code of rule R112, or a command's completion. -/
theorem issueWord_cases {w : Word} {s t : State} (h : issueWord w s = .next t) :
    (w = 0x00000001 ∧ t = complete (leaveErrorState (accept s))) ∨
    (s.status.err = true ∧ t = s) ∨
    (s.status.err = false ∧ ∃ k, t = errorState (errCode k) w s) ∨
    (s.status.err = false ∧ ∃ i, i ≠ .softReset ∧ w = encode i ∧ t = complete (bodyOf i (accept s))) := by
  cases hdecode : decode w with
  | error e =>
    simp only [issueWord, hdecode, issueIllegal_eq] at h
    cases herr : s.status.err with
    | true =>
      simp only [herr, if_true] at h
      cases h
      exact .inr (.inl ⟨rfl, rfl⟩)
    | false =>
      simp only [herr, Bool.false_eq_true, if_false] at h
      cases h
      exact .inr (.inr (.inl ⟨rfl, .illegalCommand, rfl⟩))
  | ok i =>
    rw [issueWord_of_decode hdecode] at h
    obtain rfl := eq_encode_of_decode hdecode
    by_cases hi : i = .softReset
    · subst hi
      cases h
      exact .inl ⟨rfl, rfl⟩
    · rcases exec_cases hi h with hignored | ⟨herr, k, -, rfl⟩ | ⟨herr, -, rfl⟩
      · exact .inr (.inl hignored)
      · exact .inr (.inr (.inl ⟨herr, k, rfl⟩))
      · exact .inr (.inr (.inr ⟨herr, i, hi, rfl, rfl⟩))

end Sys2Proof.Machine
end

section
/-!
PROOFS of the state family: the invariant between transactions and the error state (rules R19 to R21, R32, R36, R117,
R118).
-/

namespace Sys2Proof.Machine

@[simp] theorem regWrite_err (r : Reg) (v : Word) (s : State) : (regWrite r v s).status.err = s.status.err := by
  cases r with
  | status => exact flagsWritten_err v s.status
  | _ => rfl

/-- A register write keeps the invariant: only STATUS can touch what it speaks of, and there only DONE falls. -/
theorem regWrite_keeps_inv (r : Reg) (v : Word) {s : State} (hs : s.Inv) : (regWrite r v s).Inv := by
  obtain ⟨⟨hbusy, hwork⟩, ⟨hset, hclear⟩, hkey⟩ := hs
  by_cases hr : r = .status
  · subst hr
    refine ⟨⟨(flagsWritten_busy v _).trans hbusy, hwork⟩, ⟨fun herr => ?_, fun herr => ?_⟩, fun hkvalid => ?_⟩
    · obtain ⟨hlow, hhigh, hdone, hkvalid⟩ := hset ((regWrite_err _ v s).symm.trans herr)
      exact ⟨hlow, hhigh, by simp [regWrite, hdone], (flagsWritten_kvalid v _).trans hkvalid⟩
    · exact hclear ((regWrite_err _ v s).symm.trans herr)
    · exact hkey ((flagsWritten_kvalid v _).symm.trans hkvalid)
  · simp only [State.Inv, State.Idle, State.ErrorRecordSound, State.KeySound, regWrite_status_of_ne hr, regWrite_work,
      regWrite_errcode, regWrite_errinfo, regWrite_kmat]
    exact ⟨⟨hbusy, hwork⟩, ⟨hset, hclear⟩, hkey⟩

/-- Error entry leaves a state that meets the invariant, whatever it started from. -/
theorem errorState_inv (k : ErrKind) (w : Word) (s : State) : (errorState (errCode k) w s).Inv := by
  obtain ⟨hlow, hhigh⟩ := errCode_range k
  exact ⟨⟨rfl, rfl⟩, ⟨fun _ => ⟨hlow, hhigh, rfl, rfl⟩, (nomatch ·)⟩, fun _ => rfl⟩

/-- So does SOFT_RESET. -/
theorem softReset_inv (s : State) : (complete (leaveErrorState s)).Inv :=
  ⟨⟨rfl, rfl⟩, ⟨(nomatch ·), fun _ => ⟨rfl, rfl⟩⟩, fun _ => rfl⟩

/-- So does hardware reset. -/
theorem hardReset_inv (s : State) : (hardReset s).Inv :=
  ⟨⟨rfl, rfl⟩, ⟨(nomatch ·), fun _ => ⟨rfl, rfl⟩⟩, fun _ => rfl⟩

/-- A command that completes keeps the invariant: its body leaves the error record as it was and KMAT zero without
KVALID. -/
theorem completed_keeps_inv {i : Instr} {s : State} (hi : i ≠ .softReset) (herr : s.status.err = false) (hs : s.Inv) :
    (complete (bodyOf i (accept s))).Inv := by
  obtain ⟨-, ⟨-, hclear⟩, hkey⟩ := hs
  obtain ⟨hcode, hinfo⟩ := hclear herr
  have hbody : (bodyOf i (accept s)).status.err = false := bodyOf_err_clear i herr
  refine ⟨⟨rfl, rfl⟩, ⟨fun h => ?_, fun _ => ⟨?_, ?_⟩⟩, fun hkvalid => ?_⟩
  · exact absurd (hbody.symm.trans h) (by decide)
  · exact (bodyOf_errcode i _ hi).trans hcode
  · exact (bodyOf_errinfo i _ hi).trans hinfo
  · rcases bodyOf_key_lifetime i (accept s) hkvalid with ⟨hbefore, hkept⟩ | hzero
    · exact hkept.trans (hkey hbefore)
    · exact hzero

/-- A write of any word to CMD keeps the invariant. -/
theorem issueWord_keeps_inv {w : Word} {s t : State} (hs : s.Inv) (h : issueWord w s = .next t) : t.Inv := by
  rcases issueWord_cases h with ⟨-, rfl⟩ | ⟨-, rfl⟩ | ⟨-, k, rfl⟩ | ⟨herr, i, hi, -, rfl⟩
  · exact softReset_inv _
  · exact hs
  · exact errorState_inv k w s
  · exact completed_keeps_inv hi herr hs

/-- Every transaction keeps the invariant; a read, a push and a pop touch nothing it speaks of. -/
theorem perform_keeps_inv {tx : HostTx} {s t : State} (hs : s.Inv) (h : perform tx s = .next t) : t.Inv := by
  rcases perform_cases h with
    ⟨_, -, rfl⟩ | ⟨r, v, -, -, rfl⟩ | ⟨_, -, hissue⟩ | ⟨_, -, rfl⟩ | ⟨_, -, -, rfl⟩ | ⟨-, rfl⟩
  · exact hs
  · exact regWrite_keeps_inv r v hs
  · exact issueWord_keeps_inv hs hissue
  · exact hs
  · exact hs
  · exact hardReset_inv s

/-- Settles O55: a step is idle or performs one transaction, and every transaction keeps the invariant
(`perform_keeps_inv`), which does not speak of the pending list. -/
theorem everyStepKeepsTheInvariant : Obligations.EveryStepKeepsTheInvariant := by
  intro s t hs h
  rcases step_cases h with ⟨-, rfl⟩ | ⟨tx, rest, -, hperform⟩
  · exact hs
  · exact perform_keeps_inv (s := { s with pending := rest }) hs hperform

/-- Settles O23, by the cases of a step: a command other than SOFT_RESET is ignored, and the host's other moves do not
reach the error record. -/
theorem onlyResetLeavesTheErrorState : Obligations.OnlyResetLeavesTheErrorState := by
  intro s t herr h
  rcases step_cases h with ⟨-, rfl⟩ | ⟨tx, rest, hpending, hperform⟩
  · exact .inr (.inr ⟨herr, rfl, rfl⟩)
  rcases perform_cases hperform with
    ⟨_, -, rfl⟩ | ⟨r, v, -, -, rfl⟩ | ⟨_, rfl, hissue⟩ | ⟨_, -, rfl⟩ | ⟨_, -, -, rfl⟩ | ⟨rfl, -⟩
  · exact .inr (.inr ⟨herr, rfl, rfl⟩)
  · exact .inr (.inr ⟨(regWrite_err r v _).trans herr, regWrite_errcode r v _, regWrite_errinfo r v _⟩)
  · rcases issueWord_cases hissue with ⟨rfl, -⟩ | ⟨-, rfl⟩ | ⟨hclear, -⟩ | ⟨hclear, -⟩
    · exact .inl ⟨rest, hpending⟩
    · exact .inr (.inr ⟨herr, rfl, rfl⟩)
    · exact absurd (herr.symm.trans hclear) (by decide)
    · exact absurd (herr.symm.trans hclear) (by decide)
  · exact .inr (.inr ⟨herr, rfl, rfl⟩)
  · exact .inr (.inr ⟨herr, rfl, rfl⟩)
  · exact .inr (.inl ⟨rest, hpending⟩)

end Sys2Proof.Machine
end

section
/-!
PROOFS of the state family: what commands write, and that none reads the working state it finds (rules R22 to R32, R36).
-/

namespace Sys2Proof.Machine

/-- Settles O58: error entry writes none of these fields, and no body does (`bodyOf_len` and its siblings). -/
theorem commandsLeaveTheOperandRegisters : Obligations.CommandsLeaveTheOperandRegisters := by
  intro i s t hi h
  rcases exec_cases hi h with ⟨-, rfl⟩ | ⟨-, k, -, rfl⟩ | ⟨-, -, rfl⟩
  · exact ⟨rfl, rfl, rfl, rfl, rfl, rfl, rfl⟩
  · exact ⟨rfl, rfl, rfl, rfl, rfl, rfl, rfl⟩
  · exact ⟨bodyOf_len i _ hi, bodyOf_pwlen i _ hi, bodyOf_klen i _ hi, bodyOf_key i _ hi, bodyOf_ien i _ hi,
      bodyOf_pending i _ hi, bodyOf_replies i _ hi⟩

/-- Settles O59: error entry writes none of these registers but KMAT, and a body only what the "who writes it" lemmas
(`bodyOf_digest` and its siblings) let it. -/
theorem resultRegistersHaveTheirWriters : Obligations.ResultRegistersHaveTheirWriters := by
  intro i s t hi h
  rcases exec_cases hi h with ⟨-, rfl⟩ | ⟨-, k, -, rfl⟩ | ⟨-, -, rfl⟩
  · exact ⟨fun _ => rfl, fun _ => rfl, fun _ => rfl, fun _ => rfl, fun _ _ => rfl⟩
  · exact ⟨fun _ => rfl, fun _ => rfl, fun _ => rfl, fun _ => rfl, fun _ herr => nomatch herr⟩
  · exact ⟨fun hne => bodyOf_digest i _ (by simp [hi, hne]),
      fun hmem => bodyOf_salt i _ (List.not_mem_cons_of_ne_of_not_mem hi hmem),
      fun hmem => bodyOf_padcount i _ (List.not_mem_cons_of_ne_of_not_mem hi hmem),
      fun hmem => bodyOf_chunk i _ (List.not_mem_cons_of_ne_of_not_mem hi hmem),
      fun hmem _ => bodyOf_kmat i _ (List.not_mem_cons_of_ne_of_not_mem hi hmem)⟩

/-- What an operation writes outside the working state does not depend on the working state it finds. -/
def IgnoresWork (f : State → State) : Prop :=
  ∀ (s : State) (w : Work), ∃ w', f { s with work := w } = { f s with work := w' }

/-- One operation after another. -/
theorem IgnoresWork.comp {f g : State → State} (hg : IgnoresWork g) (hf : IgnoresWork f) : IgnoresWork (g ∘ f) := by
  intro s w
  obtain ⟨w1, h1⟩ := hf s w
  obtain ⟨w2, h2⟩ := hg (f s) w1
  exact ⟨w2, (congrArg g h1).trans h2⟩

theorem encryptFullChunk_ignoresWork : IgnoresWork encryptFullChunk := fun _ _ => ⟨_, rfl⟩
theorem encryptLastChunk_ignoresWork : IgnoresWork encryptLastChunk := fun _ _ => ⟨_, rfl⟩
theorem decryptFullChunk_ignoresWork : IgnoresWork decryptFullChunk := fun _ _ => ⟨_, rfl⟩
theorem decryptLastChunk_ignoresWork : IgnoresWork decryptLastChunk := fun _ _ => ⟨_, rfl⟩
theorem fileEncStart_ignoresWork : IgnoresWork fileEncStart := fun _ _ => ⟨_, rfl⟩
theorem fileDecStart_ignoresWork : IgnoresWork fileDecStart := fun _ _ => ⟨_, rfl⟩
theorem endFile_ignoresWork : IgnoresWork endFile := fun _ w => ⟨w, rfl⟩

/-- The loop of FILE_ENC (rule R105), chunk by chunk. -/
theorem encryptChunks_ignoresWork : ∀ n : Nat, IgnoresWork (encryptChunks n)
  | 0 => fun _ w => ⟨w, rfl⟩
  | 1 => by
    intro s w
    by_cases hpad : s.padNat = 0
    · have hpad' : State.padNat { s with work := w } = 0 := hpad
      simpa only [encryptChunks, hpad, hpad', ne_eq, not_true_eq_false, if_false] using encryptFullChunk_ignoresWork s w
    · have hpad' : ¬State.padNat { s with work := w } = 0 := hpad
      simpa only [encryptChunks, hpad, hpad', ne_eq, not_false_eq_true, if_true] using encryptLastChunk_ignoresWork s w
  | n + 2 => (encryptChunks_ignoresWork (n + 1)).comp encryptFullChunk_ignoresWork

/-- The loop of FILE_DEC (rule R106), chunk by chunk. -/
theorem decryptChunks_ignoresWork : ∀ n : Nat, IgnoresWork (decryptChunks n)
  | 0 => fun _ w => ⟨w, rfl⟩
  | 1 => decryptLastChunk_ignoresWork
  | n + 2 => (decryptChunks_ignoresWork (n + 1)).comp decryptFullChunk_ignoresWork

/-- Every command's body ignores the working state it finds. -/
theorem bodyOf_ignoresWork (i : Instr) : IgnoresWork (bodyOf i) := by
  intro s w
  cases i with
  | fileEnc =>
    exact (endFile_ignoresWork.comp ((encryptChunks_ignoresWork ((s.lenNat + padCount s.lenNat) / 8)).comp
      fileEncStart_ignoresWork)) s w
  | fileDec =>
    exact (endFile_ignoresWork.comp ((decryptChunks_ignoresWork ((s.lenNat - Config.headerBytes) / 8)).comp
      fileDecStart_ignoresWork)) s w
  | _ => exact ⟨_, rfl⟩

/-- No check reads the working state. -/
theorem checksOf_work (i : Instr) (s : State) (w : Work) : checksOf i { s with work := w } = checksOf i s := by
  cases i <;> rfl

/-- An accepted command's outcome is the same whatever the working state holds: its checks do not read it, and completion
as error entry zeroes it. -/
theorem issue_work (i : Instr) {s : State} (w : Work) (herr : s.status.err = false) :
    issue (encode i) (checksOf i) (bodyOf i) { s with work := w } = issue (encode i) (checksOf i) (bodyOf i) s := by
  have hchecks : checksOf i (accept { s with work := w }) = checksOf i (accept s) := checksOf_work i (accept s) w
  cases hk : firstError (checksOf i (accept s)) with
  | some k =>
    rw [issue_raised herr hk, issue_raised (s := { s with work := w }) herr (hchecks ▸ hk)]
    rfl
  | none =>
    rw [issue_completed herr hk, issue_completed (s := { s with work := w }) herr (hchecks ▸ hk)]
    obtain ⟨w', hbody⟩ := bodyOf_ignoresWork i (accept s) w
    calc complete (bodyOf i (accept { s with work := w }))
        = complete { bodyOf i (accept s) with work := w' } := congrArg complete hbody
      _ = complete (bodyOf i (accept s)) := rfl

/-- Settles O57: SOFT_RESET sets the working state, and every other command is `issue_work`. -/
theorem noCommandSeesEarlierWorkingState : Obligations.NoCommandSeesEarlierWorkingState := by
  intro i s w h
  by_cases hi : i = .softReset
  · subst hi
    rfl
  · have herr : s.status.err = false := h.resolve_right hi
    rw [exec_eq_issue i _ hi, exec_eq_issue i s hi, issue_work i w herr]

end Sys2Proof.Machine
end

section
/-!
PROOFS of the state family: the stream table (rules R34, R78, R80) and the sub-keys (rules R93, R95, R96).
-/

namespace Sys2Proof.Machine

/-- A swap of two entries keeps the table a permutation. -/
theorem tableSwap_bijective {T : Vector Byte 256} (h : Function.Bijective (tableAt T)) (i j : Byte) :
    Function.Bijective (tableAt (tableSwap T i j)) := by
  have hcomp : tableAt (tableSwap T i j) = tableAt T ∘ Equiv.swap i j :=
    funext fun k => tableAt_tableSwap_eq_swap T i j k
  rw [hcomp]
  exact h.comp (Equiv.swap i j).bijective

/-- The identity table is a permutation. -/
theorem tableIdentity_bijective : Function.Bijective (tableAt tableIdentity) := by
  have hid : tableAt tableIdentity = id := funext tableAt_tableIdentity
  rw [hid]
  exact Function.bijective_id

/-- Any steps of the key schedule keep the table a permutation: each is a swap. -/
theorem ksaSteps_bijective (key : List Byte) (steps : List Nat) (p : Vector Byte 256 × Byte)
    (h : Function.Bijective (tableAt p.1)) : Function.Bijective (tableAt (steps.foldl (ksaStep key) p).1) := by
  induction steps generalizing p with
  | nil => exact h
  | cons i steps ih => exact ih _ (tableSwap_bijective h _ _)

/-- The key schedule makes a permutation (rule R78). -/
theorem ksa_bijective (key : List Byte) : Function.Bijective (tableAt (ksa key)) :=
  ksaSteps_bijective key (List.range 256) _ tableIdentity_bijective

/-- Settles O30, by induction on the keystream steps: the key schedule makes a permutation, and each step swaps two of its
entries. -/
theorem streamTableStaysAPermutation : Obligations.StreamTableStaysAPermutation := by
  intro key n
  induction n with
  | zero => exact ksa_bijective key
  | succ n ih =>
    rw [Function.iterate_succ_apply']
    exact tableSwap_bijective ih _ _

/-- Four chunks on, also past the wrap of CHUNK, the sub-key is the same (rule R93): 4 divides 2^64. -/
theorem fileSubKey_add_four (kmat : Vector Byte 64) (n : DWord) : fileSubKey kmat (n + 4) = fileSubKey kmat n := by
  have hmod : (n + 4).toNat % 4 = n.toNat % 4 := by
    rw [BitVec.toNat_add, show (4 : DWord).toNat = 4 from rfl]
    omega
  simp only [fileSubKey, hmod]

/-- Settles O42: the chunk functions read the chunk index through the sub-key only. -/
theorem subKeysRotateWithPeriodFour : Obligations.SubKeysRotateWithPeriodFour := by
  intro kmat n x
  simp only [chunkEnc, chunkDec, fileSubKey_add_four, and_self]

end Sys2Proof.Machine
end

section
/-!
PROOFS of the memory family (20_memory.md): register accesses with no step (rules R44, R45), and the byte order of the
buffers and of the key material (rules R46 to R48).
-/

namespace Sys2Proof.Machine

/-- An access that is not a 32-bit one at an aligned offset of the window reaches no register. -/
theorem accessReg_eq_none {off width : Nat} (h : ¬(width = 4 ∧ off % 4 = 0 ∧ off ≤ 0x1FC)) :
    accessReg off width = none := by
  cases hr : accessReg off width with
  | none => rfl
  | some r =>
    obtain ⟨rfl, rfl⟩ := accessReg_eq_some_iff.mp hr
    exact absurd ⟨rfl, r.offset_aligned⟩ h

/-- A read that reaches no register is a bus error. -/
theorem perform_memRead_of_none {off width : Nat} (h : accessReg off width = none) (s : State) :
    perform (.memRead off width) s = .fault .busError := by
  simp only [perform, h]

/-- A write that reaches no register is a bus error. -/
theorem perform_memWrite_of_none {off width : Nat} (h : accessReg off width = none) (v : Word) (s : State) :
    perform (.memWrite off width v) s = .fault .busError := by
  simp only [perform, h]

/-- Settles O6: such an access reaches no register (`accessReg_eq_none`). -/
theorem otherAccessesAreRefused : Obligations.OtherAccessesAreRefused := by
  intro s off width v rest h
  have hnone := accessReg_eq_none h
  exact ⟨fun hpending => (step_of_pending hpending).trans (perform_memRead_of_none hnone _),
    fun hpending => (step_of_pending hpending).trans (perform_memWrite_of_none hnone v _)⟩

/-- Lane `q` of a word packed from four bytes is byte `q` (rule R10). -/
theorem byteLane_leWord (b0 b1 b2 b3 : Byte) {q : Nat} (hq : q < 4) :
    byteLane (leWord b0 b1 b2 b3) q = [b0, b1, b2, b3].getD q 0 := by
  match q, hq with
  | 0, _ => exact byteLane_leWord_0 b0 b1 b2 b3
  | 1, _ => exact byteLane_leWord_1 b0 b1 b2 b3
  | 2, _ => exact byteLane_leWord_2 b0 b1 b2 b3
  | 3, _ => exact byteLane_leWord_3 b0 b1 b2 b3

/-- Byte `k` of a buffer after four bytes are written as its word `j` (rule R46). -/
theorem fileSetWord_leWord_getElem {n : Nat} (file : Vector Byte n) (j : Nat) (b0 b1 b2 b3 : Byte) (k : Nat)
    (hk : k < n) :
    (fileSetWord file j (leWord b0 b1 b2 b3))[k] =
      if k / 4 = j then [b0, b1, b2, b3].getD (k % 4) 0 else file[k] := by
  rw [fileSetWord_getElem, byteLane_leWord b0 b1 b2 b3 (Nat.mod_lt k (by decide))]

/-- Settles O11: a write to a word of either buffer is `fileSetWord`, byte by byte `fileSetWord_leWord_getElem`. -/
theorem bufferWordsArePackedLittleEndian : Obligations.BufferWordsArePackedLittleEndian :=
  fun s b0 b1 b2 b3 =>
    ⟨fun j k => fileSetWord_leWord_getElem s.key j.val b0 b1 b2 b3 k.val k.isLt,
      fun j k => fileSetWord_leWord_getElem s.salt j.val b0 b1 b2 b3 k.val k.isLt⟩

/-- A word that lies inside a slice is a word of the string (rule R10). -/
theorem le32At_slice (a : List Byte) (k n i : Nat) (h : i + 4 ≤ n) : le32At (slice a k n) i = le32At a (k + i) := by
  simp only [le32At, slice_getD a k n i (by omega), slice_getD a k n (i + 1) (by omega),
    slice_getD a k n (i + 2) (by omega), slice_getD a k n (i + 3) (by omega), Nat.add_assoc]

/-- Word `i` of serialised words is the `i`-th of them (rule R47). -/
theorem le32At_flatMap_bytes32 (ws : List Word) (i : Nat) (h : i < ws.length) :
    le32At (ws.flatMap bytes32) (4 * i) = ws[i] := by
  induction ws generalizing i with
  | nil => exact absurd h (Nat.not_lt_zero i)
  | cons w ws ih =>
    rw [List.flatMap_cons]
    cases i with
    | zero => exact le32At_bytes32_zero w _
    | succ i => exact (le32At_bytes32_add w _ (4 * i)).trans (ih i (Nat.lt_of_succ_lt_succ h))

/-- Word `i` of the digest string is word `i` of the hash state (rule R74). -/
theorem le32At_digestString_digestWords (H : HashState) (i : Nat) (h : i < 16) :
    le32At (digestString (digestWords H)) (4 * i) = H[i] := by
  rw [digestString, le32At_flatMap_bytes32 _ i (by simpa using h)]
  simp [digestWords]

/-- Settles O40: word `q` of the sub-key is word `4m + q` of KMAT (`le32At_slice`), which holds the digest string. -/
theorem wordSubKeysAreHashWords : Obligations.WordSubKeysAreHashWords := by
  intro H n q
  rw [fileSubKey, fileOfBytes_toList 64 _ (digestString_length _), le32At_slice _ _ _ _ (by omega),
    show 16 * (n.toNat % 4) + 4 * q.val = 4 * (4 * (n.toNat % 4) + q.val) by omega,
    le32At_digestString_digestWords H _ (by omega)]

end Sys2Proof.Machine
end

section
/-!
PROOFS of the memory family: how many bytes each command moves through the queues and draws (rule R50).
-/

namespace Sys2Proof.Machine

/-- From `s` to `t` exactly `taken` bytes leave the head of DIN, which holds them, `put` bytes join the tail of DOUT and
`drawn` bytes come from RND. -/
structure Moves (s t : State) (taken put drawn : Nat) : Prop where
  held : taken ≤ s.din.length
  din : t.din = s.din.drop taken
  dout : ∃ out, t.dout = s.dout ++ out ∧ out.length = put
  rnd : t.rndDrawn = s.rndDrawn + drawn

/-- One operation after another moves the sums. -/
theorem Moves.trans {s t u : State} {a b c a' b' c' : Nat} (h : Moves s t a b c) (h' : Moves t u a' b' c') :
    Moves s u (a + a') (b + b') (c + c') := by
  obtain ⟨hheld, hdin, ⟨out, hdout, hlen⟩, hrnd⟩ := h
  obtain ⟨hheld', hdin', ⟨out', hdout', hlen'⟩, hrnd'⟩ := h'
  rw [hdin, List.length_drop] at hheld'
  refine ⟨by omega, ?_, ⟨out ++ out', ?_, ?_⟩, ?_⟩
  · rw [hdin', hdin, List.drop_drop]
  · rw [hdout', hdout, List.append_assoc]
  · rw [List.length_append, hlen, hlen']
  · rw [hrnd', hrnd, Nat.add_assoc]

/-- An operation that leaves the queues and RND alone moves nothing. -/
theorem Moves.of_eq {s t : State} (hdin : t.din = s.din) (hdout : t.dout = s.dout) (hrnd : t.rndDrawn = s.rndDrawn) :
    Moves s t 0 0 0 :=
  ⟨Nat.zero_le _, hdin, ⟨[], by rw [hdout, List.append_nil], rfl⟩, hrnd⟩

/-- An operation that only takes bytes from DIN. -/
theorem Moves.of_take {s t : State} {n : Nat} (h : n ≤ s.din.length) (hdin : t.din = s.din.drop n)
    (hdout : t.dout = s.dout) (hrnd : t.rndDrawn = s.rndDrawn) : Moves s t n 0 0 :=
  ⟨h, hdin, ⟨[], by rw [hdout, List.append_nil], rfl⟩, hrnd⟩

/-! Each body, given the bytes it takes. -/

theorem strmBody_moves {s : State} (h : s.lenNat ≤ s.din.length) : Moves s (strmBody s) s.lenNat s.lenNat 0 :=
  ⟨h, rfl, ⟨_, rfl, by simp [State.dinHead, h]⟩, rfl⟩

theorem blkEncBody_moves {s : State} (h : 8 ≤ s.din.length) : Moves s (blkEncBody s) 8 8 0 :=
  ⟨h, rfl, ⟨_, rfl, rfl⟩, rfl⟩

theorem blkDecBody_moves {s : State} (h : 8 ≤ s.din.length) : Moves s (blkDecBody s) 8 8 0 :=
  ⟨h, rfl, ⟨_, rfl, rfl⟩, rfl⟩

theorem header_length (pc : Byte) (salt : Vector Byte 128) : (header pc salt.toList).length = 133 := by
  simp [header]

theorem putHeader_moves (s : State) : Moves s (putHeader s) 0 133 0 :=
  ⟨Nat.zero_le _, rfl, ⟨_, rfl, header_length _ _⟩, rfl⟩

theorem drawSalt_moves (s : State) : Moves s (drawSalt s) 0 0 128 :=
  ⟨Nat.zero_le _, rfl, ⟨[], (List.append_nil _).symm, rfl⟩, rfl⟩

theorem encryptFullChunk_moves {s : State} (h : 8 ≤ s.din.length) : Moves s (encryptFullChunk s) 8 8 0 :=
  ⟨h, rfl, ⟨_, rfl, rfl⟩, rfl⟩

theorem encryptLastChunk_moves {s : State} (h : 8 - s.padNat ≤ s.din.length) :
    Moves s (encryptLastChunk s) (8 - s.padNat) 8 s.padNat :=
  ⟨h, rfl, ⟨_, rfl, rfl⟩, rfl⟩

/-- One chunk in and decrypted, `keep` of its bytes out (rules R102, R104). -/
theorem decryptChunk_moves {s : State} {keep : Nat} (h : 8 ≤ s.din.length) (hkeep : keep ≤ 8) :
    Moves s (decryptChunk (s.dinHead 8) keep (s.dinPop 8)) 8 keep 0 :=
  ⟨h, rfl, ⟨(chunkDec s.kmat s.chunk (s.dinHead 8)).take keep, rfl, by simp [hkeep]⟩, rfl⟩

/-- The loop of FILE_ENC (rule R105): all its chunks go out, their last `PADCOUNT` bytes drawn. -/
theorem encryptChunks_moves {n : Nat} {s : State} (hpad : s.padNat ≤ 7) (hn : n = 0 → s.padNat = 0)
    (hdin : 8 * n ≤ s.din.length + s.padNat) :
    Moves s (encryptChunks n s) (8 * n - s.padNat) (8 * n) s.padNat := by
  rw [encryptChunks_eq n s hpad hn hdin]
  exact ⟨by omega, rfl, ⟨_, rfl, by simp [List.length_flatMap, Nat.mul_comm]⟩, rfl⟩

/-- The loop of FILE_DEC (rule R106): all its chunks come in, their last `PADCOUNT` bytes are dropped. -/
theorem decryptChunks_moves {n : Nat} {s : State} (hpad : s.padNat ≤ 7) (hdin : 8 * n ≤ s.din.length) :
    Moves s (decryptChunks n s) (8 * n) (8 * n - s.padNat) 0 := by
  rw [decryptChunks_eq n s hpad hdin]
  exact ⟨hdin, rfl, ⟨_, rfl, by simp [List.length_flatMap, Nat.mul_comm]⟩, rfl⟩

/-- Steps 1 to 3 of FILE_ENC: the password in, the salt drawn, the header out. -/
theorem fileEncStart_moves {s : State} (h : s.pwlenNat ≤ s.din.length) :
    Moves s (fileEncStart s) s.pwlenNat 133 128 :=
  ⟨h, rfl, ⟨_, rfl, header_length _ _⟩, rfl⟩

/-- Steps 1 and 2 of FILE_DEC: the password and the header in. -/
theorem fileDecStart_moves {s : State} (h : s.pwlenNat + 133 ≤ s.din.length) :
    Moves s (fileDecStart s) (s.pwlenNat + 133) 0 0 :=
  .of_take h List.drop_drop rfl rfl

theorem endFile_moves (s : State) : Moves s (endFile s) 0 0 0 := .of_eq rfl rfl rfl

/-- FILE_ENC's pad-count, read back from PADCOUNT. -/
theorem fileEncStart_padNat (s : State) : (fileEncStart s).padNat = padCount s.lenNat := by
  have hle := padCount_le s.lenNat
  exact Nat.mod_eq_of_lt (by omega)

theorem fileEncBody_moves {s : State} (h : s.pwlenNat + s.lenNat ≤ s.din.length) :
    Moves s (fileEncBody s) (s.pwlenNat + s.lenNat) (133 + s.lenNat + padCount s.lenNat) (128 + padCount s.lenNat) := by
  have hstart := fileEncStart_moves (s := s) (by omega)
  have hpad := fileEncStart_padNat s
  have hle := padCount_le s.lenNat
  have hchunks : 8 * ((s.lenNat + padCount s.lenNat) / 8) = s.lenNat + padCount s.lenNat := by
    rw [Nat.mul_comm, padCount_add]
  have hrest : (fileEncStart s).din.length = s.din.length - s.pwlenNat := by rw [hstart.din, List.length_drop]
  have hloop := encryptChunks_moves (n := (s.lenNat + padCount s.lenNat) / 8) (s := fileEncStart s)
    (by omega) (by omega) (by omega)
  rw [hpad, hchunks, Nat.add_sub_cancel] at hloop
  exact Nat.add_assoc 133 _ _ ▸ (hstart.trans hloop).trans (endFile_moves _)

/-- FILE_DEC's pad-count, byte 4 of the header behind the password. -/
theorem fileDecStart_padNat (s : State) : (fileDecStart s).padNat = (s.dinPeek (s.pwlenNat + 4)).toNat := by
  show ((s.din.drop s.pwlenNat).getD 4 0).toNat = (s.din.getD (s.pwlenNat + 4) 0).toNat
  simp [List.getD_eq_getElem?_getD]

theorem fileDecBody_moves {s : State} (h : s.pwlenNat + s.lenNat ≤ s.din.length) (hlen : 133 ≤ s.lenNat)
    (hmod : (s.lenNat - 133) % 8 = 0) (hpc : (s.dinPeek (s.pwlenNat + 4)).toNat ≤ 7) :
    Moves s (fileDecBody s) (s.pwlenNat + s.lenNat) (s.lenNat - 133 - (s.dinPeek (s.pwlenNat + 4)).toNat) 0 := by
  have hstart := fileDecStart_moves (s := s) (by omega)
  have hpad := fileDecStart_padNat s
  have hchunks : 8 * ((s.lenNat - 133) / 8) = s.lenNat - 133 := by omega
  have hrest : (fileDecStart s).din.length = s.din.length - (s.pwlenNat + 133) := by rw [hstart.din, List.length_drop]
  have hloop := decryptChunks_moves (n := (s.lenNat - 133) / 8) (s := fileDecStart s) (by omega) (by omega)
  rw [hpad, hchunks] at hloop
  have hall := (hstart.trans hloop).trans (endFile_moves _)
  rwa [show s.pwlenNat + 133 + (s.lenNat - 133) + 0 = s.pwlenNat + s.lenNat by omega, Nat.zero_add] at hall

/-- A command with no failing check has no failing row in rule R113's table. -/
theorem failureTable_of_firstFailure {i : Instr} {s : State} (h : firstFailure i s = none) :
    ∀ row ∈ failureTable i s, row.1 = false := by
  simpa [firstFailure] using h

/-- What a command's body moves when no check of the command fails (rule R50). -/
theorem bodyOf_moves {i : Instr} {s : State} (hi : i ≠ .softReset) (hf : firstFailure i s = none) :
    Moves s (bodyOf i s) (bytesIn i s) (bytesOut i s) (bytesDrawn i s) := by
  have hrows := failureTable_of_firstFailure hf
  cases i with
  | softReset => exact absurd rfl hi
  | nop => exact .of_eq rfl rfl rfl
  | hash =>
    have hdin : s.len.toNat ≤ s.din.length := by simpa [failureTable] using hrows
    exact .of_take hdin rfl rfl rfl
  | strm =>
    obtain ⟨-, hdin⟩ : _ ∧ s.len.toNat ≤ s.din.length := by simpa [failureTable] using hrows
    exact strmBody_moves hdin
  | blkEnc =>
    obtain ⟨-, hdin⟩ : _ ∧ 8 ≤ s.din.length := by simpa [failureTable] using hrows
    exact blkEncBody_moves hdin
  | blkDec =>
    obtain ⟨-, hdin⟩ : _ ∧ 8 ≤ s.din.length := by simpa [failureTable] using hrows
    exact blkDecBody_moves hdin
  | saltGen => exact drawSalt_moves s
  | kdf =>
    obtain ⟨-, hdin⟩ : _ ∧ s.pwlen.toNat ≤ s.din.length := by simpa [failureTable] using hrows
    exact .of_take hdin rfl rfl rfl
  | hdrPut => exact putHeader_moves s
  | hdrGet =>
    obtain ⟨-, hdin, -⟩ : _ ∧ 133 ≤ s.din.length ∧ _ := by simpa [failureTable] using hrows
    exact .of_take hdin rfl rfl rfl
  | chunkEnc =>
    obtain ⟨-, hdin⟩ : _ ∧ 8 ≤ s.din.length := by simpa [failureTable] using hrows
    exact encryptFullChunk_moves hdin
  | chunkDec =>
    obtain ⟨-, hdin⟩ : _ ∧ 8 ≤ s.din.length := by simpa [failureTable] using hrows
    exact decryptChunk_moves hdin (Nat.le_refl 8)
  | chunkEncLast =>
    obtain ⟨-, -, hdin⟩ : _ ∧ _ ∧ 8 ≤ s.din.length + s.padcount.toNat := by simpa [failureTable] using hrows
    exact encryptLastChunk_moves (Nat.sub_le_of_le_add hdin)
  | chunkDecLast =>
    obtain ⟨-, -, hdin⟩ : _ ∧ _ ∧ 8 ≤ s.din.length := by simpa [failureTable] using hrows
    exact decryptChunk_moves hdin (Nat.sub_le 8 _)
  | fileEnc =>
    have hdin : s.pwlen.toNat + s.len.toNat ≤ s.din.length := by simpa [failureTable] using hrows
    exact fileEncBody_moves hdin
  | fileDec =>
    obtain ⟨hdin, -, ⟨hlen, hmod⟩, hpc⟩ : s.pwlen.toNat + s.len.toNat ≤ s.din.length ∧ _ ∧
        (133 ≤ s.len.toNat ∧ (s.len.toNat - 133) % 8 = 0) ∧ (s.dinPeek (s.pwlen.toNat + 4)).toNat ≤ 7 := by
      simpa [failureTable, State.dinPeek] using hrows
    have hput : bytesOut .fileDec s = s.len.toNat - 133 - (s.dinPeek (s.pwlen.toNat + 4)).toNat := by
      show (if _ then _ else _) = _
      split
      · rfl
      · omega
    rw [hput]
    exact fileDecBody_moves hdin hlen hmod hpc

/-! Acceptance changes no amount and no check of rule R113. -/

@[simp] theorem firstFailure_accept (i : Instr) (s : State) : firstFailure i (accept s) = firstFailure i s := by
  cases i <;> rfl
@[simp] theorem bytesIn_accept (i : Instr) (s : State) : bytesIn i (accept s) = bytesIn i s := by cases i <;> rfl
@[simp] theorem bytesOut_accept (i : Instr) (s : State) : bytesOut i (accept s) = bytesOut i s := by cases i <;> rfl
@[simp] theorem bytesDrawn_accept (i : Instr) (s : State) : bytesDrawn i (accept s) = bytesDrawn i s := by
  cases i <;> rfl

/-- Settles O60: such a command is acceptance, body, completion (`exec_completed`), and only the body moves bytes
(`bodyOf_moves`). -/
theorem commandsMoveTheStatedBytes : Obligations.CommandsMoveTheStatedBytes := by
  intro i s hi he hf
  have hbody := bodyOf_moves (s := accept s) hi ((firstFailure_accept i s).trans hf)
  rw [bytesIn_accept, bytesOut_accept, bytesDrawn_accept] at hbody
  obtain ⟨hheld, hdin, ⟨out, hdout, hlen⟩, hrnd⟩ := hbody
  exact ⟨_, out, exec_completed he hf, hheld, hdin, hdout, hlen, hrnd⟩

end Sys2Proof.Machine
end

section
/-!
PROOFS of the encoding family (30_encoding.md): the opcode table and illegal words (rules R59, R61 to R63, R114, R118).
-/

namespace Sys2Proof

/-- Every row of the table decodes to its command: no two rows share an opcode. -/
theorem decodeOp_of_mem : ∀ row ∈ opcodeTable, decodeOp row.1 = .ok row.2 := by decide

/-- The word of a command decodes to it. -/
@[simp] theorem decode_encode (i : Instr) : decode (encode i) = .ok i := by cases i <;> rfl

/-- A word decodes to a command exactly when it is the command's word. -/
theorem decode_eq_ok_iff {w : Word} {i : Instr} : decode w = .ok i ↔ w = encode i :=
  ⟨Machine.eq_encode_of_decode, fun h => h ▸ decode_encode i⟩

/-- The two fields that decide what a word decodes to. -/
theorem decode_eq_ok_iff_fields {w : Word} {i : Instr} :
    decode w = .ok i ↔ zeroField w = 0 ∧ decodeOp (opField w) = .ok i := by
  by_cases hzero : zeroField w = 0
  · rw [decode, if_pos hzero, and_iff_right hzero]
  · rw [decode, if_neg hzero]
    exact ⟨(nomatch ·), fun h => absurd h.1 hzero⟩

/-- A word decodes exactly when its zero field is 0 and its opcode field is in the table. -/
theorem exists_decode_iff {w : Word} :
    (∃ i, decode w = .ok i) ↔ zeroField w = 0 ∧ opField w ∈ opcodeTable.map Prod.fst := by
  simp only [decode_eq_ok_iff_fields]
  constructor
  · rintro ⟨i, hzero, hop⟩
    exact ⟨hzero, List.mem_map_of_mem (decodeOp_mem hop)⟩
  · rintro ⟨hzero, hop⟩
    obtain ⟨row, hrow, hfst⟩ := List.mem_map.mp hop
    exact ⟨row.2, hzero, hfst ▸ decodeOp_of_mem row hrow⟩

/-- Settles O1: the words of the table are `encode`'s by definition, then `decode_eq_ok_iff` and `exists_decode_iff`. -/
theorem decodeSelectsExactlyTheTableWords : Obligations.DecodeSelectsExactlyTheTableWords :=
  ⟨by decide, fun _ _ => decode_eq_ok_iff, fun _ => exists_decode_iff⟩

/-- Settles O3: the commands' words are `encode`'s (`decode_encode`). -/
theorem writtenOutWordsDecode : Obligations.WrittenOutWordsDecode :=
  ⟨decode_encode .nop, decode_encode .hash, decode_encode .strm, decode_encode .blkDec, decode_encode .chunkEncLast,
    decode_encode .fileDec, rfl, rfl⟩

/-- A word is illegal exactly when it decodes to no command. -/
theorem illegal_eq_false_iff {w : Word} : illegal w = false ↔ ∃ i, decode w = .ok i := by
  unfold illegal
  cases decode w <;> simp

/-- The words of the opcode table (rule R61). -/
def commandWords : Finset Word := (opcodeTable.map fun row => encode row.2).toFinset

theorem commandWords_card : commandWords.card = 16 :=
  List.toFinset_card_of_nodup (by decide)

theorem mem_commandWords {w : Word} : w ∈ commandWords ↔ ∃ i, w = encode i := by
  simp only [commandWords, List.mem_toFinset, List.mem_map]
  constructor
  · rintro ⟨row, -, rfl⟩
    exact ⟨row.2, rfl⟩
  · rintro ⟨i, rfl⟩
    obtain ⟨op, hrow⟩ := mem_opcodeTable i
    exact ⟨(op, i), hrow, rfl⟩

/-- The illegal words are those that are not in the table. -/
theorem illegal_iff_mem_compl_commandWords {w : Word} : illegal w = true ↔ w ∈ commandWordsᶜ := by
  rw [Finset.mem_compl, mem_commandWords, ← Bool.not_eq_false, illegal_eq_false_iff]
  simp only [decode_eq_ok_iff]

theorem card_word : Fintype.card Word = 2 ^ 32 :=
  (Fintype.card_congr FinEnum.equiv).trans (Fintype.card_fin _)

/-- Of the 2^32 words all but the sixteen of the table are illegal. -/
theorem card_illegal : (Finset.univ.filter fun w : Word => illegal w = true).card = 2 ^ 32 - 16 := by
  have hfilter : (Finset.univ.filter fun w : Word => illegal w = true) = commandWordsᶜ := by
    ext w
    simp only [Finset.mem_filter, Finset.mem_univ, true_and, illegal_iff_mem_compl_commandWords]
  rw [hfilter, Finset.card_compl, commandWords_card, card_word]

end Sys2Proof

namespace Sys2Proof.Machine

/-- The host's next transaction being a write to CMD, the step issues the written word. -/
theorem step_of_cmd_write {s : State} {w : Word} {rest : List HostTx} (h : s.pending = .memWrite 0x000 4 w :: rest) :
    step s = issueWord w { s with pending := rest } :=
  (step_of_pending h).trans (perform_memWrite .cmd w _)

/-- A written word that does not decode is issued as an illegal one. -/
theorem issueWord_of_decode_error {w : Word} {e : DecodeError} (h : decode w = .error e) (s : State) :
    issueWord w s = .next (issueIllegal w s) := by
  simp only [issueWord, h]

/-- A written word that is no command's is issued as an illegal one. -/
theorem issueWord_of_ne_encode {w : Word} (h : ∀ i, w ≠ encode i) (s : State) :
    issueWord w s = .next (issueIllegal w s) := by
  cases hdecode : decode w with
  | ok i => exact absurd (decode_eq_ok_iff.mp hdecode) (h i)
  | error e => exact issueWord_of_decode_error hdecode s

/-- Settles O2: `card_illegal`, and the write reaches CMD, where the word is issued as an illegal one. -/
theorem illegalWordsRaiseIllegalCommand : Obligations.IllegalWordsRaiseIllegalCommand := by
  refine ⟨card_illegal, fun s w rest hpending herr hillegal => ?_⟩
  rw [step_of_cmd_write hpending, issueWord_of_ne_encode hillegal, issueIllegal_eq, herr]
  rfl

/-- A write of any word to CMD answers a next state. -/
theorem issueWord_next (w : Word) (s : State) : ∃ t, issueWord w s = .next t := by
  cases hdecode : decode w with
  | ok i =>
    rw [issueWord_of_decode hdecode]
    exact exec_next i s
  | error e => exact ⟨_, issueWord_of_decode_error hdecode s⟩

/-- In the error state a write of any word but SOFT_RESET's is ignored (rules R63, R118). -/
theorem issueWord_ignored {w : Word} {s : State} (herr : s.status.err = true) (hw : w ≠ 0x00000001) :
    issueWord w s = .next s := by
  obtain ⟨t, ht⟩ := issueWord_next w s
  rcases issueWord_cases ht with ⟨hreset, -⟩ | ⟨-, rfl⟩ | ⟨hclear, -⟩ | ⟨hclear, -⟩
  · exact absurd hreset hw
  · exact ht
  · exact absurd (herr.symm.trans hclear) (by decide)
  · exact absurd (herr.symm.trans hclear) (by decide)

/-- Settles O22: the write reaches CMD, where the word is ignored. -/
theorem errorStateIgnoresCommands : Obligations.ErrorStateIgnoresCommands := by
  intro s w rest hpending herr hw
  rw [step_of_cmd_write hpending]
  exact issueWord_ignored herr hw

end Sys2Proof.Machine
end

section
/-!
PROOFS of the encoding family: the scripts that load operands (rules R24, R26, R28, R31, R46, R66).
-/

namespace Sys2Proof.Machine

/-- One step of a run: a pending write to a register other than CMD is taken and stored. -/
theorem run_of_scriptWr {r : Reg} {v : Word} {s : State} {rest : List HostTx} (hr : r ≠ .cmd)
    (h : s.pending = scriptWr r v :: rest) (k : Nat) :
    Host.Core.run core (k + 1) s = Host.Core.run core k (regWrite r v { s with pending := rest }) := by
  have hstep : core.step s = .next (regWrite r v { s with pending := rest }) :=
    (registerAccessesAnswer s r v rest).2 h hr
  simp only [Host.Core.run, hstep]

/-- SETLEN: the two halves of LEN make the whole value. -/
theorem run_scriptSetLen {s : State} {n : DWord} {rest : List HostTx} (h : s.pending = scriptSetLen n ++ rest) :
    Host.Core.run core 2 s = .next { s with pending := rest, len := n } := by
  rw [run_of_scriptWr (by decide) h, run_of_scriptWr (by decide) rfl]
  simp [Host.Core.run, regWrite]

/-- SETCHUNK: the two halves of CHUNK make the whole value. -/
theorem run_scriptSetChunk {s : State} {n : DWord} {rest : List HostTx} (h : s.pending = scriptSetChunk n ++ rest) :
    Host.Core.run core 2 s = .next { s with pending := rest, chunk := n } := by
  rw [run_of_scriptWr (by decide) h, run_of_scriptWr (by decide) rfl]
  simp [Host.Core.run, regWrite]

/-- The write of word `j` of the key `b` (rule R66). -/
def keyWordWrite (b : List Byte) (j : Fin 64) : HostTx := scriptWr (.key j) (le32At b (4 * j.val))

/-- KEY after the words `js` of the key `b` are written to it. -/
def writeKeyWords (b : List Byte) (js : List (Fin 64)) (file : Vector Byte 256) : Vector Byte 256 :=
  js.foldl (fun file j => fileSetWord file j.val (le32At b (4 * j.val))) file

/-- The words that LOADKEY writes: those that begin inside the key. -/
def keyWordIndices (b : List Byte) : List (Fin 64) := (List.finRange 64).filter fun j => 4 * j.val < b.length

/-- `scriptKeyWords` writes these words. -/
theorem scriptKeyWords_eq (b : List Byte) : scriptKeyWords b = (keyWordIndices b).map (keyWordWrite b) := by
  rw [keyWordIndices, ← List.filterMap_eq_map, List.filterMap_filter]
  simp [scriptKeyWords, keyWordWrite]

/-- Running the writes of key words changes nothing but KEY. -/
theorem run_keyWordWrites (b : List Byte) {rest : List HostTx} (js : List (Fin 64)) :
    ∀ s : State, s.pending = js.map (keyWordWrite b) ++ rest →
      Host.Core.run core js.length s = .next { s with pending := rest, key := writeKeyWords b js s.key } := by
  induction js with
  | nil =>
    intro s h
    rw [← show s.pending = rest from h]
    rfl
  | cons j js ih =>
    intro s h
    rw [List.length_cons, run_of_scriptWr (r := .key j) (by simp) h, ih _ (by simp)]
    rfl

/-- Lane `q` of a word of a byte string is the string's byte `q` behind the word's first. -/
theorem byteLane_le32At (a : List Byte) (k : Nat) {q : Nat} (hq : q < 4) :
    byteLane (le32At a k) q = a.getD (k + q) 0 := by
  rw [le32At, byteLane_leWord _ _ _ _ hq]
  match q, hq with
  | 0, _ => rfl
  | 1, _ => rfl
  | 2, _ => rfl
  | 3, _ => rfl

/-- Byte `k` of a file after its word `j` is loaded with word `j` of a byte string. -/
theorem fileSetWord_le32At_getElem {n : Nat} (file : Vector Byte n) (a : List Byte) (j k : Nat) (hk : k < n) :
    (fileSetWord file j (le32At a (4 * j)))[k] = if k / 4 = j then a.getD k 0 else file[k] := by
  rw [fileSetWord_getElem, byteLane_le32At a (4 * j) (Nat.mod_lt k (by decide))]
  by_cases h : k / 4 = j
  · rw [if_pos h, if_pos h, ← h, Nat.div_add_mod]
  · rw [if_neg h, if_neg h]

/-- Byte `k` of KEY after words of the key `b` are written: the key's byte if its word is among them. -/
theorem writeKeyWords_getElem (b : List Byte) (k : Nat) (hk : k < 256) (js : List (Fin 64)) :
    ∀ file : Vector Byte 256,
      (writeKeyWords b js file)[k] = if ∃ j ∈ js, k / 4 = j.val then b.getD k 0 else file[k] := by
  induction js with
  | nil => simp [writeKeyWords]
  | cons j js ih =>
    intro file
    calc (writeKeyWords b (j :: js) file)[k]
        = if ∃ i ∈ js, k / 4 = i.val then b.getD k 0 else (fileSetWord file j.val (le32At b (4 * j.val)))[k] := ih _
      _ = if (∃ i ∈ js, k / 4 = i.val) ∨ k / 4 = j.val then b.getD k 0 else file[k] := by
        rw [fileSetWord_le32At_getElem, ite_or]
      _ = if ∃ i ∈ j :: js, k / 4 = i.val then b.getD k 0 else file[k] := by
        simp only [List.exists_mem_cons_iff, or_comm]

/-- Every byte of the key lies in a word that LOADKEY writes. -/
theorem writeKeyWords_keyWordIndices_getElem (b : List Byte) (file : Vector Byte 256) {k : Nat} (hk : k < 256)
    (hb : k < b.length) : (writeKeyWords b (keyWordIndices b) file)[k] = b[k] := by
  have hword : ∃ j ∈ keyWordIndices b, k / 4 = j.val :=
    ⟨⟨k / 4, by omega⟩,
      List.mem_filter.mpr ⟨List.mem_finRange _, decide_eq_true (show 4 * (k / 4) < b.length by omega)⟩, rfl⟩
  rw [writeKeyWords_getElem b k hk, if_pos hword, List.getD_eq_getElem b 0 hb]

/-- LOADKEY: KLEN is set, then KEY is written and nothing else. -/
theorem run_scriptLoadKey {s : State} {b : List Byte} {rest : List HostTx} (h : s.pending = scriptLoadKey b ++ rest) :
    Host.Core.run core (scriptLoadKey b).length s = .next { s with
      pending := rest
      klen := BitVec.ofNat 9 b.length
      key := writeKeyWords b (keyWordIndices b) s.key } := by
  rw [scriptLoadKey, scriptKeyWords_eq] at h ⊢
  rw [List.length_cons, List.length_map, run_of_scriptWr (by decide) h, run_keyWordWrites b _ _ rfl]
  simp only [regWrite, BitVec.setWidth_ofNat_of_le (show 9 ≤ 32 by decide)]

/-- A key of at most 256 bytes, held from KEY[0] with its length in KLEN, is STRM's key (rule R31). -/
theorem streamKey_eq {t : State} {b : List Byte} (hlen : b.length ≤ 256) (hklen : t.klen = BitVec.ofNat 9 b.length)
    (hkey : ∀ (k : Nat) (hk : k < 256) (hb : k < b.length), t.key[k] = b[k]) : t.streamKey = b := by
  have hnat : t.klenNat = b.length := by
    rw [State.klenNat, hklen, BitVec.toNat_ofNat, Nat.mod_eq_of_lt (by omega)]
  apply List.ext_getElem
  · simp [State.streamKey, hnat, hlen]
  · intro k _ hb
    simpa [State.streamKey] using hkey k (by omega) hb

/-- Settles O14: `run_scriptSetLen`, `run_scriptSetChunk` and `run_scriptLoadKey`, after which KEY holds
every byte of the key (`writeKeyWords_keyWordIndices_getElem`). -/
theorem scriptsLoadTheOperands : Obligations.ScriptsLoadTheOperands := by
  refine fun s rest => ⟨fun n => run_scriptSetLen, fun n => run_scriptSetChunk, fun b _ hlen hpending => ?_⟩
  exact ⟨_, run_scriptLoadKey hpending, rfl,
    streamKey_eq hlen rfl fun k hk hb => writeKeyWords_keyWordIndices_getElem b s.key hk hb⟩

end Sys2Proof.Machine
end

section
/-!
PROOFS of the hash family (40_hash.md, rules R67 to R69): the two steps of the round, and the round as a bijection of the
hash state.
-/

namespace Sys2Proof.Machine

/-- Rule R67's two shifts share no bit, so their XOR is a rotation. -/
theorem shiftLeft_xor_ushiftRight_eq_rotateLeft (x : Word) {r t : Nat} (hr : r < 32) (hrt : r + t = 32) :
    (x <<< r) ^^^ (x >>> t) = x.rotateLeft r := by
  ext i hi
  rw [BitVec.getElem_rotateLeft, BitVec.getElem_xor, BitVec.getElem_shiftLeft, BitVec.getElem_ushiftRight]
  by_cases h : i < r
  · simp [h, Nat.mod_eq_of_lt hr, show t + i = 32 - r + i by omega,
      BitVec.getLsbD_eq_getElem (show 32 - r + i < 32 by omega)]
  · simp [h, Nat.mod_eq_of_lt hr, BitVec.getLsbD_of_ge x (t + i) (by omega)]

theorem rotateRight_rotateLeft (x : Word) {r : Nat} (hr : r < 32) : (x.rotateLeft r).rotateRight r = x := by
  ext i hi
  rw [BitVec.getElem_rotateRight]
  by_cases h : i < 32 - r
  · simp [h, Nat.mod_eq_of_lt hr, BitVec.getElem_rotateLeft]
  · simp [h, Nat.mod_eq_of_lt hr, BitVec.getElem_rotateLeft, show i - (32 - r) < r by omega,
      show 32 - r + (i - (32 - r)) = i by omega]

/-- `AddRotate` rotates each low word. -/
theorem addRotate_low_eq_rotateLeft (S : HashState) {r t i : Nat} (hr : r < 32) (hrt : r + t = 32) (hi : i < 16) :
    (addRotate S r t)[i] = S[i].rotateLeft r := by
  rw [addRotate_low S r t i hi, shiftLeft_xor_ushiftRight_eq_rotateLeft _ hr hrt]

/-- Settles O24: the high words are `addRotate_high`'s sums, the low words `addRotate_low_eq_rotateLeft`'s rotations. -/
theorem addRotateAddsThenRotates : Obligations.AddRotateAddsThenRotates := fun S i =>
  ⟨addRotate_high S 7 25 i i.isLt, addRotate_low_eq_rotateLeft S (by decide) (by decide) i.isLt,
    addRotate_high S 11 21 i i.isLt, addRotate_low_eq_rotateLeft S (by decide) (by decide) i.isLt⟩

/-- The low word `i` of `MixSwap`, its partner given by the XOR of numbers. -/
theorem mixSwap_low_of_xor (S : HashState) (m1 m2 : Fin 32) {i j : Fin 16} (h : j.val = i.val ^^^ m1.val) :
    (mixSwap S m1 m2)[i.val] = S[j.val] ^^^ S[i.val + 16] :=
  mixSwap_low S m1 m2 ⟨i, by omega⟩ ⟨j, by omega⟩ i.isLt (Fin.ext (by rw [fin32_xor_val, h]))

/-- The high word `i` of `MixSwap`, its partner given by the XOR of numbers. -/
theorem mixSwap_high_of_xor (S : HashState) (m1 m2 : Fin 32) {i j : Fin 32} (hi : 16 ≤ i.val)
    (h : j.val = i.val ^^^ m2.val) : (mixSwap S m1 m2)[i.val] = S[j.val] :=
  mixSwap_high S m1 m2 i j (by omega) (Fin.ext (by rw [fin32_xor_val, h]))

/-- A partner under a mask below 16 lies in the same half of the state. -/
theorem fin32_xor_lt_sixteen_iff : ∀ k m : Fin 32, m < 16 → ((k ^^^ m).val < 16 ↔ k.val < 16) := by decide

/-- Partners are each other's partner. -/
theorem eq_xor_of_eq_xor {i j m : Nat} (h : j = i ^^^ m) : i = j ^^^ m := by
  rw [h, Nat.xor_xor_cancel_right]

theorem fin32_xor_xor_cancel (k m : Fin 32) : k ^^^ m ^^^ m = k :=
  Fin.ext (by rw [fin32_xor_val, ← eq_xor_of_eq_xor (fin32_xor_val k m)])

/-- Settles O25: both words of a pair are `MixSwap`'s word at an index with its partner (`mixSwap_low_of_xor`,
`mixSwap_high_of_xor`), and partners lie in one half of the state. -/
theorem mixSwapUsesValuesBeforeTheStep : Obligations.MixSwapUsesValuesBeforeTheStep := by
  intro S m hm
  have hmask : m.2 < 16 := by
    fin_cases hm <;> decide
  refine ⟨fun i j _ hj => ⟨mixSwap_low_of_xor S _ _ hj, mixSwap_low_of_xor S _ _ (eq_xor_of_eq_xor hj)⟩,
    fun i j hi _ hj => ⟨mixSwap_high_of_xor S _ _ hi hj, mixSwap_high_of_xor S _ _ ?_ (eq_xor_of_eq_xor hj)⟩⟩
  rw [hj, ← fin32_xor_val]
  exact not_lt.mp ((fin32_xor_lt_sixteen_iff i m.2 hmask).not.mpr hi.not_gt)

/-- A low word read back from the place `MixSwap` moved it to. -/
theorem mixSwap_xor_low (S : HashState) {m1 : Fin 32} (m2 k : Fin 32) (hk : (k ^^^ m1).val < 16) :
    (mixSwap S m1 m2)[k ^^^ m1] = S[k] ^^^ S[(k ^^^ m1).val + 16] :=
  mixSwap_low S m1 m2 _ k hk (fin32_xor_xor_cancel k m1)

/-- A high word read back from the place `MixSwap` moved it to. -/
theorem mixSwap_xor_high (S : HashState) (m1 : Fin 32) {m2 k : Fin 32} (hk : ¬(k ^^^ m2).val < 16) :
    (mixSwap S m1 m2)[k ^^^ m2] = S[k] :=
  mixSwap_high S m1 m2 _ k hk (fin32_xor_xor_cancel k m2)

/-- Under masks below 16 `MixSwap` keeps every high word, and with those every low word can be read back. -/
theorem mixSwap_injective {m1 m2 : Fin 32} (h1 : m1 < 16) (h2 : m2 < 16) :
    Function.Injective fun S => mixSwap S m1 m2 := by
  intro S T (h : mixSwap S m1 m2 = mixSwap T m1 m2)
  have hhigh : ∀ k : Fin 32, ¬k.val < 16 → S[k] = T[k] := fun k hk => by
    have hmoved := (fin32_xor_lt_sixteen_iff k m2 h2).not.mpr hk
    rw [← mixSwap_xor_high S m1 hmoved, h, mixSwap_xor_high T m1 hmoved]
  have hlow : ∀ k : Fin 32, k.val < 16 → S[k] = T[k] := fun k hk => by
    have hmoved := (fin32_xor_lt_sixteen_iff k m1 h1).mpr hk
    have hxor : S[k] ^^^ S[(k ^^^ m1).val + 16] = T[k] ^^^ T[(k ^^^ m1).val + 16] := by
      rw [← mixSwap_xor_low S m2 k hmoved, h, mixSwap_xor_low T m2 k hmoved]
    have hpartner : S[(k ^^^ m1).val + 16] = T[(k ^^^ m1).val + 16] :=
      hhigh ⟨(k ^^^ m1).val + 16, by omega⟩ (Nat.le_add_left 16 _).not_gt
    rwa [hpartner, BitVec.xor_left_inj] at hxor
  ext1 k hk
  by_cases hlt : k < 16
  · exact hlow ⟨k, hk⟩ hlt
  · exact hhigh ⟨k, hk⟩ hlt

/-- `AddRotate` rotates each low word back out, and with those the high words' sums can be undone. -/
theorem addRotate_injective {r t : Nat} (hr : r < 32) (hrt : r + t = 32) :
    Function.Injective fun S => addRotate S r t := by
  intro S T (h : addRotate S r t = addRotate T r t)
  have hlow : ∀ (i : Nat) (hi : i < 16), S[i] = T[i] := fun i hi => by
    rw [← rotateRight_rotateLeft S[i] hr, ← addRotate_low_eq_rotateLeft S hr hrt hi, h,
      addRotate_low_eq_rotateLeft T hr hrt hi, rotateRight_rotateLeft T[i] hr]
  have hhigh : ∀ (i : Nat) (hi : i < 16), S[16 + i] = T[16 + i] := fun i hi => by
    have hsum : S[16 + i] + S[i] = T[16 + i] + S[i] := by
      rw [← addRotate_high S r t i hi, h, addRotate_high T r t i hi, hlow i hi]
    exact (BitVec.add_left_inj _).mp hsum
  ext1 k hk
  by_cases hlt : k < 16
  · exact hlow k hlt
  · simpa only [show 16 + (k - 16) = k by omega] using hhigh (k - 16) (by omega)

theorem round_injective : Function.Injective round := fun _ _ h =>
  addRotate_injective (by decide) (by decide) <| mixSwap_injective (by decide) (by decide) <|
    addRotate_injective (by decide) (by decide) <| mixSwap_injective (by decide) (by decide) h

theorem finite_hashState : Finite HashState :=
  Finite.of_injective (fun (S : HashState) (i : Fin 32) => S[i]) fun _ _ h =>
    Vector.ext fun i hi => congrFun h ⟨i, hi⟩

theorem addRotate_zero (r t : Nat) : addRotate (Vector.replicate 32 0) r t = Vector.replicate 32 0 := by
  ext1 i hi
  simp [addRotate]

theorem mixSwap_zero (m1 m2 : Fin 32) : mixSwap (Vector.replicate 32 0) m1 m2 = Vector.replicate 32 0 := by
  ext1 i hi
  simp [mixSwap]

/-- Settles O26: each of the round's four steps is injective (`round_injective`), an injective map of a finite type to
itself is a bijection, and each step keeps the zero state. -/
theorem roundIsABijection : Obligations.RoundIsABijection := by
  have := finite_hashState
  exact ⟨Finite.injective_iff_bijective.mp round_injective, by simp only [round, addRotate_zero, mixSwap_zero]⟩

end Sys2Proof.Machine
end

section
/-!
PROOFS of the hash family (40_hash.md, rules R70 to R76): padding, the hash of a message, and the HASH command.
-/

namespace Sys2Proof.Machine

/-- The message of a padded string: the trailing zeros are removed, and the byte before them. -/
def unpad (p : List Byte) : List Byte := (p.rdropWhile (· = 0)).dropLast

/-- The byte 0x80 of the padding is not zero, so the zeros removed are the padding's and no others. -/
theorem unpad_pad (msg : List Byte) : unpad (pad msg) = msg := by
  have hstrip : (pad msg).rdropWhile (· = 0) = msg ++ [Config.padFirst] := by
    rw [pad, List.rdropWhile, List.reverse_append, List.dropWhile_append_of_pos (by simp), ← List.rdropWhile,
      List.rdropWhile_concat_neg _ _ _ (by decide)]
  rw [unpad, hstrip, List.dropLast_concat]

/-- Settles O27: the length is `pad_length`'s, and `unpad` undoes padding (`unpad_pad`). -/
theorem paddingIsWholeBlocksAndInjective : Obligations.PaddingIsWholeBlocksAndInjective :=
  ⟨fun msg => by rw [pad_length, Nat.mul_add_one], Function.LeftInverse.injective unpad_pad⟩

/-- Rule R70's seed is zero behind its three words. -/
theorem hashSeed_eq_zero : ∀ i : Fin 32, 3 ≤ i.val → hashSeed[i] = 0 := by decide

/-- A word after the XOR of `Absorb` (rule R72). -/
theorem absorbXor_getElem (S : HashState) (blk : List Byte) (w : Fin 32) :
    (absorbXor S blk)[w] = if w.val < 8 then S[w] ^^^ le32At blk (4 * w.val) else S[w] := by
  simp [absorbXor]

/-- The state of `Hash` when the first `b` blocks of `P` are absorbed (rule R75). -/
def absorbed (P : List Byte) (b : Nat) : HashState :=
  (List.range b).foldl (fun S b => absorb S (slice P (32 * b) 32)) hashInit

theorem absorbed_succ (P : List Byte) (b : Nat) :
    absorbed P (b + 1) = absorb (absorbed P b) (slice P (32 * b) 32) := by
  rw [absorbed, List.range_succ, List.foldl_append, ← absorbed, List.foldl_cons, List.foldl_nil]

theorem absorbBlocks_hashInit (P : List Byte) : absorbBlocks hashInit P = absorbed P (P.length / 32) := rfl

/-- The XOR of `Finalize` (rule R73). -/
def finalizeXor (S : HashState) : HashState := tabulate fun i => if i.val = 31 then S[i] ^^^ 1 else S[i]

theorem finalizeXor_getElem (S : HashState) (i : Fin 32) :
    (finalizeXor S)[i] = if i.val = 31 then S[i] ^^^ 1 else S[i] := by
  simp [finalizeXor]

theorem finalize_eq (S : HashState) : finalize S = round^[32] (finalizeXor S) := rfl

theorem hashFinal_eq (msg : List Byte) :
    hashFinal msg = round^[32] (finalizeXor (absorbed (pad msg) ((pad msg).length / 32))) := by
  rw [hashFinal, absorbBlocks_hashInit, finalize_eq]

/-- Rule R74: a byte of the digest is a lane of one of its words. -/
theorem hash_getD (msg : List Byte) (k : Fin 64) :
    (hash msg).getD k 0 = byteLane (hashFinal msg)[k.val / 4] (k.val % 4) := by
  rw [← le32At_digestString_digestWords (hashFinal msg) (k / 4) (by omega),
    byteLane_le32At _ _ (Nat.mod_lt _ (by decide)), Nat.div_add_mod, hash]

/-- Settles O28: the states are those of `absorbed`, and `hashFinal_eq` is the last of the rounds. -/
theorem hashRunsTheStatedRounds : Obligations.HashRunsTheStatedRounds :=
  ⟨⟨rfl, rfl, rfl, hashSeed_eq_zero⟩, absorbXor_getElem,
    fun msg => ⟨absorbed (pad msg), finalizeXor (absorbed (pad msg) ((pad msg).length / 32)), rfl,
      fun b _ => absorbed_succ (pad msg) b, finalizeXor_getElem _, hashFinal_eq msg⟩,
    fun msg => ⟨hash_length msg, hash_getD msg⟩⟩

/-- The flags of a command that completes with ERR = 0 (rule R63). -/
theorem flagsCompleted_flagsAccepted {f : Status} (h : f.err = false) :
    flagsCompleted (flagsAccepted f) = doneStatus f.kvalid := by
  obtain ⟨done, err, kvalid, busy⟩ := f
  cases h
  rfl

theorem exec_hash (s : State) : exec .hash s = .next (issue (encode .hash) hashChecks hashBody s) := rfl

/-- HASH's one check (rule R76). -/
theorem firstError_hashChecks (s : State) :
    firstError (hashChecks s) = if s.din.length < s.len.toNat then some .ioFailure else none := by
  simp only [hashChecks, firstError_cons, firstError_nil, decide_eq_true_eq]
  rfl

/-- Settles O29: with too few bytes in DIN the check fails (`issue_raised`), else the body runs (`issue_completed`). -/
theorem hashCommandWritesDigest : Obligations.HashCommandWritesDigest := by
  intro s herr
  rw [exec_hash]
  constructor
  · intro hshort
    rw [issue_raised herr ((firstError_hashChecks _).trans (if_pos hshort))]
    rfl
  · intro henough
    rw [issue_completed herr ((firstError_hashChecks _).trans (if_neg henough.not_gt)),
      ← flagsCompleted_flagsAccepted herr]
    rfl

end Sys2Proof.Machine
end

section
/-!
PROOFS of the stream family (41_stream.md, rules R78 to R83): the key schedule and the keystream step by step, the
transform of a byte string, and the STRM command.
-/

namespace Sys2Proof.Machine

/-- The table and the accumulator before step `i` of the key schedule (rule R78). -/
def ksaBefore (key : List Byte) (i : Nat) : Vector Byte 256 × Byte :=
  (List.range i).foldl (ksaStep key) (tableIdentity, 0)

theorem ksaBefore_succ (key : List Byte) (i : Nat) : ksaBefore key (i + 1) = ksaStep key (ksaBefore key i) i := by
  rw [ksaBefore, List.range_succ, List.foldl_append, ← ksaBefore, List.foldl_cons, List.foldl_nil]

/-- The keystream starts from the table after step 255 of the key schedule (rule R81). -/
theorem strmStart_eq (key : List Byte) : strmStart key = { table := (ksaBefore key 256).1, si := 0, sj := 0 } := rfl

/-- Byte `p` of the output (rule R81): byte `p` of the data XOR the keystream byte after `p + 1` steps. -/
theorem strmLoop_getD (c : StreamState) (data : List Byte) {p : Nat} (hp : p < data.length) :
    (strmLoop c data).2.getD p 0 = data.getD p 0 ^^^ prgaByte (prgaNext^[p + 1] c) := by
  induction data generalizing c p with
  | nil => exact absurd hp (Nat.not_lt_zero p)
  | cons d ds ih =>
    cases p with
    | zero => rfl
    | succ p => exact ih (prgaNext c) (Nat.lt_of_succ_lt_succ hp)

/-- Settles O31: the schedule's states are those of `ksaBefore`, the keystream's are the iterates of `prgaNext`, and the
output bytes are `strmLoop_getD`'s. -/
theorem streamRunsTheStatedSteps : Obligations.StreamRunsTheStatedSteps := by
  intro key data _
  refine ⟨fun i => (ksaBefore key i).1, fun i => (ksaBefore key i).2, fun p => prgaNext^[p] (strmStart key),
    tableAt_tableIdentity, rfl, fun i _ => ?_, strmStart_eq key, fun p => ?_, strmRun_length key data,
    fun p => strmLoop_getD (strmStart key) data⟩
  · simp only [ksaBefore_succ]
    exact ⟨rfl, rfl⟩
  · simp only [Function.iterate_succ_apply']
    exact ⟨rfl, rfl, rfl⟩

/-- A step of the key schedule reads no byte of the key beyond the first 256 (rule R79). -/
theorem ksaStep_take_256 {key : List Byte} (hkey : 256 ≤ key.length) (p : Vector Byte 256 × Byte) {i : Nat}
    (hi : i < 256) : ksaStep (key.take 256) p i = ksaStep key p i := by
  have hbyte : (key.take 256).getD (i % (key.take 256).length) 0 = key.getD (i % key.length) 0 := by
    rw [List.length_take_of_le hkey, Nat.mod_eq_of_lt hi, Nat.mod_eq_of_lt (hi.trans_le hkey),
      List.getD_eq_getElem?_getD, List.getD_eq_getElem?_getD, List.getElem?_take_of_lt hi]
  rw [ksaStep, hbyte, ← ksaStep]

/-- The key schedule reads no byte of the key beyond the first 256. -/
theorem ksa_take_256 {key : List Byte} (hkey : 256 ≤ key.length) : ksa (key.take 256) = ksa key :=
  congrArg Prod.fst <| List.foldl_ext _ _ _ fun p _ hi => ksaStep_take_256 hkey p (List.mem_range.mp hi)

/-- Settles O32: the key enters the transform through the key schedule only (`ksa_take_256`). -/
theorem keyScheduleReadsFirst256Bytes : Obligations.KeyScheduleReadsFirst256Bytes := by
  intro key data hkey
  rw [strm, strm, strmRun, strmRun, strmStart, strmStart, ksa_take_256 hkey]

/-- The keystream does not depend on the data, so a second pass from the same state XORs the same bytes again. -/
theorem strmLoop_strmLoop (c : StreamState) (data : List Byte) : (strmLoop c (strmLoop c data).2).2 = data := by
  induction data generalizing c with
  | nil => rfl
  | cons d ds ih => rw [strmLoop_cons, strmLoop_cons, ih, BitVec.xor_assoc, BitVec.xor_self, BitVec.xor_zero]

/-- Settles O33: `strmRun_length`, and `strmLoop_strmLoop` from the key schedule's state. -/
theorem streamTransformIsItsOwnInverse : Obligations.StreamTransformIsItsOwnInverse :=
  fun key data _ => ⟨strmRun_length key data, strmLoop_strmLoop (strmStart key) data⟩

theorem exec_strm (s : State) : exec .strm s = .next (issue (encode .strm) strmChecks strmBody s) := rfl

/-- STRM's two checks (rule R83). -/
theorem firstError_strmChecks (s : State) :
    firstError (strmChecks s) =
      if s.klen.toNat = 0 ∨ 256 < s.klen.toNat then some .keyLengthViolation
      else if s.din.length < s.len.toNat then some .ioFailure else none := by
  simp only [strmChecks, firstError_cons, firstError_nil, Bool.or_eq_true, decide_eq_true_eq]
  rfl

/-- Settles O34: each clause is one case of `firstError_strmChecks`. -/
theorem strmCommandTransforms : Obligations.StrmCommandTransforms := by
  intro s herr
  rw [exec_strm]
  refine ⟨fun hbad => ?_, fun hpos hle hshort => ?_, fun hpos hle henough => ?_⟩
  · rw [issue_raised herr ((firstError_strmChecks _).trans (if_pos hbad))]
    rfl
  · have hklen : ¬(s.klen.toNat = 0 ∨ 256 < s.klen.toNat) := by omega
    rw [issue_raised herr ((firstError_strmChecks _).trans ((if_neg hklen).trans (if_pos hshort)))]
    rfl
  · have hklen : ¬(s.klen.toNat = 0 ∨ 256 < s.klen.toNat) := by omega
    rw [issue_completed herr ((firstError_strmChecks _).trans ((if_neg hklen).trans (if_neg henough.not_gt))),
      ← flagsCompleted_flagsAccepted herr]
    rfl

end Sys2Proof.Machine
end

section
/-!
PROOFS of the block family (42_block.md, rules R84 to R90): the running `sum` and the sub-keys through the iterations,
the two block functions as an inverse pair, and the BLK_ENC and BLK_DEC commands.
-/

namespace Sys2Proof.Machine

/-- `sum` runs on its own: it advances by a constant, whatever the words are (rule R86). -/
theorem blkEncStep_iterate_sum (n : Nat) (b : BlockState) :
    (blkEncStep^[n] b).sum = (· + Config.bcDelta)^[n] b.sum :=
  Function.Semiconj.iterate_right (f := BlockState.sum) (gb := (· + Config.bcDelta)) blkEncStep_sum n b

/-- `sum` runs back on its own (rule R87). -/
theorem blkDecStep_iterate_sum (n : Nat) (b : BlockState) :
    (blkDecStep^[n] b).sum = (· - Config.bcDelta)^[n] b.sum :=
  Function.Semiconj.iterate_right (f := BlockState.sum) (gb := (· - Config.bcDelta)) blkDecStep_sum n b

/-- Encryption ends where decryption starts. -/
theorem blkEncRun_sum (key block : List Byte) : (blkEncRun key block).sum = Config.bcDecSum :=
  (blkEncStep_iterate_sum Config.bcCycles _).trans (show (· + Config.bcDelta)^[32] 0 = Config.bcDecSum by decide)

/-- Decryption ends where encryption starts. -/
theorem blkDecRun_sum (key block : List Byte) : (blkDecRun key block).sum = 0 :=
  (blkDecStep_iterate_sum Config.bcCycles _).trans (show (· - Config.bcDelta)^[32] Config.bcDecSum = 0 by decide)

/-- Decryption of a ciphertext loads the state encryption ended in, and runs its iterations back. -/
theorem blkDec_blkEnc (key : List Byte) {block : List Byte} (hblock : block.length = 8) :
    blkDec key (blkEnc key block) = block := by
  have hload : blkLoad key (blkEnc key block) Config.bcDecSum = blkEncRun key block := by
    rw [← blkEncRun_sum key block]
    exact blkLoad_blkStore key block _ 0 (blkEncStep_iterate_sk _ _)
  have hback : blkDecStep^[Config.bcCycles] (blkEncRun key block) = blkLoad key block 0 :=
    Function.LeftInverse.iterate blkDecStep_blkEncStep Config.bcCycles _
  rw [blkDec, blkDecRun, hload, hback, blkStore_blkLoad key block 0 hblock]

/-- Encryption of a deciphered block loads the state decryption ended in, and runs its iterations back. -/
theorem blkEnc_blkDec (key : List Byte) {block : List Byte} (hblock : block.length = 8) :
    blkEnc key (blkDec key block) = block := by
  have hload : blkLoad key (blkDec key block) 0 = blkDecRun key block := by
    rw [← blkDecRun_sum key block]
    exact blkLoad_blkStore key block _ 0 (blkDecStep_iterate_sk _ _)
  have hback : blkEncStep^[Config.bcCycles] (blkDecRun key block) = blkLoad key block Config.bcDecSum :=
    Function.LeftInverse.iterate blkEncStep_blkDecStep Config.bcCycles _
  rw [blkEnc, blkEncRun, hload, hback, blkStore_blkLoad key block Config.bcDecSum hblock]

/-- The zero block under the zero key, encrypted twice, is not zero. -/
theorem blkEnc_blkEnc_zero_ne :
    blkEnc (List.replicate 16 0) (blkEnc (List.replicate 16 0) (List.replicate 8 0)) ≠ List.replicate 8 0 := by
  decide +kernel

/-- Settles O35: `blkDec_blkEnc`, `blkEnc_blkDec`, and the zero block under the zero key. -/
theorem blockCipherIsAnInversePair : Obligations.BlockCipherIsAnInversePair :=
  ⟨fun key _ _ hblock => ⟨blkDec_blkEnc key hblock, blkEnc_blkDec key hblock⟩,
    List.replicate 16 0, List.replicate 8 0, rfl, rfl, blkEnc_blkEnc_zero_ne⟩

/-- The word sub-key that `x` selects, as four bytes of the key (rules R84, R86). -/
theorem subKey_blkLoad (key block : List Byte) (y x : Word) :
    subKey (blkLoad key block y).sk x = le32At key (4 * (x &&& 3).toNat) := by
  have hlt : (x &&& 3).toNat < 4 := BitVec.toNat_and x 3 ▸ Nat.lt_succ_of_le Nat.and_le_right
  have hidx : (Fin.ofNat 4 (x &&& 3).toNat).val = (x &&& 3).toNat := Nat.mod_eq_of_lt hlt
  rw [subKey, blkLoad, Fin.getElem_fin, tabulate_getElem, hidx]

theorem blkEncStep_v0 (b : BlockState) :
    (blkEncStep b).v0 = b.v0 + feistelF b.v1 b.sum (subKey b.sk b.sum) := rfl

/-- An encryption iteration's second update reads the new `v0` and the new `sum` (rule R86). -/
theorem blkEncStep_v1 (b : BlockState) :
    (blkEncStep b).v1 =
      b.v1 + feistelF (blkEncStep b).v0 (blkEncStep b).sum (subKey b.sk ((blkEncStep b).sum >>> 11)) := rfl

theorem blkDecStep_v1 (b : BlockState) :
    (blkDecStep b).v1 = b.v1 - feistelF b.v0 b.sum (subKey b.sk (b.sum >>> 11)) := rfl

/-- A decryption iteration's second update reads the new `v1` and the new `sum` (rule R87). -/
theorem blkDecStep_v0 (b : BlockState) :
    (blkDecStep b).v0 =
      b.v0 - feistelF (blkDecStep b).v1 (blkDecStep b).sum (subKey b.sk (blkDecStep b).sum) := rfl

/-- The state of `BlkEnc` after `r` iterations. -/
def blkEncAfter (key block : List Byte) (r : Nat) : BlockState := blkEncStep^[r] (blkLoad key block 0)

/-- The state of `BlkDec` after `r` iterations. -/
def blkDecAfter (key block : List Byte) (r : Nat) : BlockState := blkDecStep^[r] (blkLoad key block Config.bcDecSum)

theorem blkEncAfter_succ (key block : List Byte) (r : Nat) :
    blkEncAfter key block (r + 1) = blkEncStep (blkEncAfter key block r) := Function.iterate_succ_apply' ..

theorem blkDecAfter_succ (key block : List Byte) (r : Nat) :
    blkDecAfter key block (r + 1) = blkDecStep (blkDecAfter key block r) := Function.iterate_succ_apply' ..

/-- Encryption selects its sub-keys from the key in every iteration. -/
theorem subKey_blkEncAfter (key block : List Byte) (r : Nat) (x : Word) :
    subKey (blkEncAfter key block r).sk x = le32At key (4 * (x &&& 3).toNat) := by
  rw [blkEncAfter, blkEncStep_iterate_sk, subKey_blkLoad]

/-- Decryption selects its sub-keys from the key in every iteration. -/
theorem subKey_blkDecAfter (key block : List Byte) (r : Nat) (x : Word) :
    subKey (blkDecAfter key block r).sk x = le32At key (4 * (x &&& 3).toNat) := by
  rw [blkDecAfter, blkDecStep_iterate_sk, subKey_blkLoad]

/-- Settles O36: the states are those of `blkEncAfter` and `blkDecAfter`, whose sub-keys stay those of the key. -/
theorem blockFunctionsRunTheStatedIterations : Obligations.BlockFunctionsRunTheStatedIterations := by
  refine ⟨fun _ _ _ => rfl, fun key block _ _ => ⟨?encryption, ?decryption⟩⟩
  case encryption =>
    refine ⟨fun r => (blkEncAfter key block r).v0, fun r => (blkEncAfter key block r).v1,
      fun r => (blkEncAfter key block r).sum, rfl, rfl, rfl, fun r => ?_, blkEncRun_sum key block, rfl⟩
    simp only [blkEncAfter_succ, ← subKey_blkEncAfter key block r]
    exact ⟨blkEncStep_v0 _, blkEncStep_sum _, blkEncStep_v1 _⟩
  case decryption =>
    refine ⟨fun r => (blkDecAfter key block r).v0, fun r => (blkDecAfter key block r).v1,
      fun r => (blkDecAfter key block r).sum, rfl, rfl, rfl, fun r => ?_, blkDecRun_sum key block, rfl⟩
    simp only [blkDecAfter_succ, ← subKey_blkDecAfter key block r]
    exact ⟨blkDecStep_v1 _, blkDecStep_sum _, blkDecStep_v0 _⟩

/-- The two checks of BLK_ENC and BLK_DEC (rules R89, R90). -/
theorem firstError_blkChecks (s : State) :
    firstError (blkChecks s) =
      if s.klen.toNat ≠ 16 ∨ s.len.toNat ≠ 8 then some .keyLengthViolation
      else if s.din.length < 8 then some .ioFailure else none := by
  simp only [blkChecks, firstError_cons, firstError_nil, Bool.or_eq_true, decide_eq_true_eq]
  rfl

/-- What a command with these checks does, whatever its word and its body: one clause for each case of the checks. -/
theorem issue_blkChecks (w : Word) (body : State → State) {s : State} (herr : s.status.err = false) :
    (s.klen.toNat ≠ 16 ∨ s.len.toNat ≠ 8 → issue w blkChecks body s = errorState 0x02 w s) ∧
    (s.klen.toNat = 16 → s.len.toNat = 8 → s.din.length < 8 → issue w blkChecks body s = errorState 0x03 w s) ∧
    (s.klen.toNat = 16 → s.len.toNat = 8 → 8 ≤ s.din.length →
      issue w blkChecks body s = complete (body (accept s))) := by
  have hchecks := firstError_blkChecks (accept s)
  refine ⟨fun hbad => ?_, fun hklen hlen hshort => ?_, fun hklen hlen henough => ?_⟩
  · exact issue_raised herr (hchecks.trans (if_pos hbad))
  · have hok : ¬(s.klen.toNat ≠ 16 ∨ s.len.toNat ≠ 8) := by omega
    exact issue_raised herr (hchecks.trans ((if_neg hok).trans (if_pos hshort)))
  · have hok : ¬(s.klen.toNat ≠ 16 ∨ s.len.toNat ≠ 8) := by omega
    exact issue_completed herr (hchecks.trans ((if_neg hok).trans (if_neg henough.not_gt)))

theorem exec_blkEnc (s : State) : exec .blkEnc s = .next (issue 0x00000030 blkChecks blkEncBody s) := rfl

theorem exec_blkDec (s : State) : exec .blkDec s = .next (issue 0x00000031 blkChecks blkDecBody s) := rfl

/-- Settles O37: the clauses are those of `issue_blkChecks` for BLK_ENC's body. -/
theorem blkEncCommandEnciphers : Obligations.BlkEncCommandEnciphers := by
  intro s herr
  obtain ⟨hlengths, hshort, hdone⟩ := issue_blkChecks 0x00000030 blkEncBody herr
  rw [exec_blkEnc, ← flagsCompleted_flagsAccepted herr]
  exact ⟨fun h => congrArg _ (hlengths h), fun hk hl hd => congrArg _ (hshort hk hl hd),
    fun hk hl hd => congrArg _ (hdone hk hl hd)⟩

/-- Settles O38: the clauses are those of `issue_blkChecks` for BLK_DEC's body. -/
theorem blkDecCommandDeciphers : Obligations.BlkDecCommandDeciphers := by
  intro s herr
  obtain ⟨hlengths, hshort, hdone⟩ := issue_blkChecks 0x00000031 blkDecBody herr
  rw [exec_blkDec, ← flagsCompleted_flagsAccepted herr]
  exact ⟨fun h => congrArg _ (hlengths h), fun hk hl hd => congrArg _ (hshort hk hl hd),
    fun hk hl hd => congrArg _ (hdone hk hl hd)⟩

end Sys2Proof.Machine
end

section
/-!
PROOFS of the sequencer family (43_sequencer.md, rules R91 to R104): the pad-count, the chunk functions as inverses, and
the step commands.
-/

namespace Sys2Proof.Machine

/-- Settles O41: the block unit undoes itself (`blkDec_blkEnc`), then the stream unit does (`strmLoop_strmLoop`). -/
theorem chunkDecryptionInvertsEncryption : Obligations.ChunkDecryptionInvertsEncryption := by
  intro kmat n x hx
  have hstrm : (strm (fileSubKey kmat n) x).length = 8 := (strmRun_length _ x).trans hx
  rw [chunkDec, chunkEnc, blkDec_blkEnc _ hstrm]
  exact strmLoop_strmLoop (strmStart _) x

/-- Settles O39: `L + padCount L` is `L` rounded up to a multiple of 8. -/
theorem padCountReachesTheNextMultiple : Obligations.PadCountReachesTheNextMultiple := by
  intro L
  have hround : L + padCount L = (L + 7) / 8 * 8 := by
    rw [padCount]
    omega
  exact ⟨padCount_le L, by omega, fun M hM hmod => by omega⟩

/-! The first failing check of each command (rule R113), its table read row by row. -/

/-- A failing row is reported, and behind a row that does not fail the rest of the table counts. -/
theorem find?_code_cons (b : Bool) (c : Byte) (rest : List (Bool × Byte)) :
    (((b, c) :: rest).find? fun p => p.1).map (fun p => p.2) =
      if b then some c else (rest.find? fun p => p.1).map fun p => p.2 := by
  cases b <;> rfl

@[simp] theorem firstFailure_kdf (s : State) :
    firstFailure .kdf s =
      if 7 < s.padcount.toNat then some 0x05 else if s.din.length < s.pwlen.toNat then some 0x03 else none := by
  simp [firstFailure, failureTable, find?_code_cons]

@[simp] theorem firstFailure_hdrPut (s : State) :
    firstFailure .hdrPut s = if 7 < s.padcount.toNat then some 0x05 else none := by
  simp [firstFailure, failureTable]

@[simp] theorem firstFailure_hdrGet (s : State) :
    firstFailure .hdrGet s =
      if 4 ≤ s.din.length ∧ s.din.take 4 ≠ Config.magic.toList then some 0x01
      else if s.din.length < 133 then some 0x03
      else if 7 < (s.din.getD 4 0).toNat then some 0x05 else none := by
  simp [firstFailure, failureTable, find?_code_cons]

@[simp] theorem firstFailure_chunkEnc (s : State) :
    firstFailure .chunkEnc s =
      if s.status.kvalid = false then some 0x06 else if s.din.length < 8 then some 0x03 else none := by
  simp [firstFailure, failureTable, find?_code_cons]

@[simp] theorem firstFailure_chunkDec (s : State) : firstFailure .chunkDec s = firstFailure .chunkEnc s := rfl

@[simp] theorem firstFailure_chunkEncLast (s : State) :
    firstFailure .chunkEncLast s =
      if s.status.kvalid = false then some 0x06
      else if 7 < s.padcount.toNat then some 0x05
      else if s.din.length < 8 - s.padcount.toNat then some 0x03 else none := by
  simp only [firstFailure, failureTable, find?_code_cons, decide_eq_true_eq]
  rfl

@[simp] theorem firstFailure_chunkDecLast (s : State) :
    firstFailure .chunkDecLast s =
      if s.status.kvalid = false then some 0x06
      else if 7 < s.padcount.toNat then some 0x05
      else if s.din.length < 8 then some 0x03 else none := by
  simp [firstFailure, failureTable, find?_code_cons]

@[simp] theorem firstFailure_fileEnc (s : State) :
    firstFailure .fileEnc s = if s.din.length < s.pwlen.toNat + s.len.toNat then some 0x03 else none := by
  simp [firstFailure, failureTable]

@[simp] theorem firstFailure_fileDec (s : State) :
    firstFailure .fileDec s =
      if s.din.length < s.pwlen.toNat + s.len.toNat then some 0x03
      else if s.len.toNat < 4 ∨ (s.din.drop s.pwlen.toNat).take 4 ≠ Config.magic.toList then some 0x01
      else if s.len.toNat < 133 ∨ (s.len.toNat - 133) % 8 ≠ 0 then some 0x04
      else if 7 < (s.din.getD (s.pwlen.toNat + 4) 0).toNat then some 0x05 else none := by
  simp [firstFailure, failureTable, find?_code_cons]

/-- With ERR = 0 the first failing row is the error the command reports, and error entry is all it does. -/
theorem exec_raised {i : Instr} {s : State} {code : Byte} (he : s.status.err = false) (hf : firstFailure i s = some code) :
    exec i s = .next (errorState code (encode i) s) := by
  have hi : i ≠ .softReset := by
    rintro rfl
    exact nomatch hf
  obtain ⟨k, hk, rfl⟩ := Option.map_eq_some_iff.mp ((firstFailure_eq i s).symm.trans hf)
  rw [exec_eq_issue i s hi, issue_raised he hk]

/-- The flags of a command that completes with ERR = 0 and writes KVALID (rules R63, R98, R105, R106). -/
theorem flagsCompleted_of_kvalid {f : Status} (h : f.err = false) (kvalid : Bool) :
    flagsCompleted { f with kvalid := kvalid } = doneStatus kvalid :=
  flagsCompleted_flagsAccepted (f := { f with kvalid := kvalid }) h

/-! The step commands: a clause for each row of the table, and the body when no row fails. -/

theorem fileOfBytes_eq_ofFn (n : Nat) (a : List Byte) : fileOfBytes n a = Vector.ofFn fun k => a.getD k.val 0 :=
  tabulate_eq_ofFn _

theorem fileOfBytes_rndHead (s : State) (n : Nat) :
    fileOfBytes n (s.rndHead n) = Vector.ofFn fun k => Config.rnd (s.rndDrawn + k.val) := by
  ext k hk
  simp [State.rndHead, hk]

theorem fileOfBytes_slice (n : Nat) (a : List Byte) (k : Nat) :
    fileOfBytes n (slice a k n) = Vector.ofFn fun i => a.getD (k + i.val) 0 := by
  rw [fileOfBytes_eq_ofFn]
  exact congrArg Vector.ofFn (funext fun i => slice_getD a k n i i.isLt)

/-- Settles O43: SALT_GEN has no check, and its body draws the salt (`fileOfBytes_rndHead`). -/
theorem saltGenDrawsTheSalt : Obligations.SaltGenDrawsTheSalt := by
  intro s herr
  rw [exec_completed herr rfl, ← flagsCompleted_flagsAccepted herr, ← fileOfBytes_rndHead]
  rfl

/-- Settles O44: two checks, and the body; KDF's KVALID = 1 stands in the flags it completes with. -/
theorem kdfDerivesTheKey : Obligations.KdfDerivesTheKey := by
  intro s herr
  refine ⟨fun hpad => ?_, fun hpad hshort => ?_, fun hpad hdin => ?_⟩
  · exact exec_raised herr (by simp [hpad])
  · exact exec_raised herr (by simp [hpad.not_gt, hshort])
  · rw [exec_completed herr (by simp [hpad.not_gt, hdin.not_gt]), ← fileOfBytes_eq_ofFn,
      ← flagsCompleted_of_kvalid herr]
    rfl

/-- Settles O45: one check, and the body appends the header. -/
theorem hdrPutWritesTheHeader : Obligations.HdrPutWritesTheHeader := by
  intro s herr
  refine ⟨fun hpad => ?_, fun hpad => ?_⟩
  · exact exec_raised herr (by simp [hpad])
  · rw [exec_completed herr (by simp [hpad.not_gt]), ← flagsCompleted_flagsAccepted herr]
    rfl

/-- Settles O46: with the marker right or fewer than four bytes in DIN the first check does not fail. -/
theorem hdrGetReadsTheHeader : Obligations.HdrGetReadsTheHeader := by
  intro s herr
  refine ⟨fun hfour hmagic => ?_, fun hmagic hshort => ?_, fun hmagic hdin hpc => ?_, fun hmagic hdin hpc => ?_⟩
  · exact exec_raised herr (by simp [hfour, hmagic])
  · have hmarker : ¬(4 ≤ s.din.length ∧ s.din.take 4 ≠ Config.magic.toList) :=
      fun ⟨hfour, hne⟩ => hmagic.elim hfour.not_gt hne
    exact exec_raised herr (by rw [firstFailure_hdrGet, if_neg hmarker, if_pos hshort])
  · exact exec_raised herr (by rw [firstFailure_hdrGet, if_neg fun h => h.2 hmagic, if_neg hdin.not_gt, if_pos hpc])
  · rw [exec_completed herr
      (by rw [firstFailure_hdrGet, if_neg fun h => h.2 hmagic, if_neg hdin.not_gt, if_neg hpc.not_gt]),
      ← fileOfBytes_slice, ← flagsCompleted_flagsAccepted herr]
    rfl

/-- CHUNK_ENC and CHUNK_DEC make the same two checks (rules R101, R102), a clause for each and one for the body. -/
theorem exec_fullChunk {i : Instr} (hi : ∀ s, firstFailure i s = firstFailure .chunkEnc s) {s : State}
    (herr : s.status.err = false) :
    (s.status.kvalid = false → exec i s = .next (errorState 0x06 (encode i) s)) ∧
    (s.status.kvalid = true → s.din.length < 8 → exec i s = .next (errorState 0x03 (encode i) s)) ∧
    (s.status.kvalid = true → 8 ≤ s.din.length → exec i s = .next (complete (bodyOf i (accept s)))) :=
  ⟨fun hkey => exec_raised herr (by simp [hi, hkey]),
    fun hkey hshort => exec_raised herr (by simp [hi, hkey, hshort]),
    fun hkey hdin => exec_completed herr (by simp [hi, hkey, hdin.not_gt])⟩

/-- CHUNK_DEC keeps all 8 bytes of the decrypted chunk. -/
theorem decryptFullChunk_dout (s : State) :
    (decryptFullChunk s).dout = s.dout ++ chunkDec s.kmat s.chunk (s.din.take 8) :=
  congrArg (s.dout ++ ·) (List.take_of_length_le (Nat.le_of_eq (chunkDec_length ..)))

/-- Settles O47: the checks of `exec_fullChunk`, and the body. -/
theorem chunkEncCommandEncrypts : Obligations.ChunkEncCommandEncrypts := by
  intro s herr
  obtain ⟨hnokey, hshort, hdone⟩ := exec_fullChunk (i := .chunkEnc) (fun _ => rfl) herr
  refine ⟨hnokey, hshort, fun hkey hdin => (hdone hkey hdin).trans ?_⟩
  rw [← hkey, ← flagsCompleted_flagsAccepted herr]
  rfl

/-- Settles O48: the checks of `exec_fullChunk`, and the body. -/
theorem chunkDecCommandDecrypts : Obligations.ChunkDecCommandDecrypts := by
  intro s herr
  obtain ⟨hnokey, hshort, hdone⟩ := exec_fullChunk (i := .chunkDec) (fun _ => rfl) herr
  refine ⟨hnokey, hshort, fun hkey hdin => (hdone hkey hdin).trans ?_⟩
  rw [← hkey, ← flagsCompleted_flagsAccepted herr, ← decryptFullChunk_dout]
  rfl

/-- Settles O49: three checks, and the body, whose filler is the next bytes of RND. -/
theorem chunkEncLastPadsAndEncrypts : Obligations.ChunkEncLastPadsAndEncrypts := by
  intro s herr
  refine ⟨fun hkey => ?_, fun hkey hpad => ?_, fun hkey hpad hshort => ?_, fun hkey hpad hdin => ?_⟩
  · exact exec_raised herr (by simp [hkey])
  · exact exec_raised herr (by simp [hkey, hpad])
  · exact exec_raised herr (by simp [hkey, hpad.not_gt, hshort])
  · rw [exec_completed herr (by simp [hkey, hpad.not_gt, hdin.not_gt]), ← hkey, ← flagsCompleted_flagsAccepted herr]
    rfl

/-- Settles O50: three checks, and the body, which keeps the first `8 - PADCOUNT` bytes. -/
theorem chunkDecLastDropsTheFiller : Obligations.ChunkDecLastDropsTheFiller := by
  intro s herr
  refine ⟨fun hkey => ?_, fun hkey hpad => ?_, fun hkey hpad hshort => ?_, fun hkey hpad hdin => ?_⟩
  · exact exec_raised herr (by simp [hkey])
  · exact exec_raised herr (by simp [hkey, hpad])
  · exact exec_raised herr (by simp [hkey, hpad.not_gt, hshort])
  · rw [exec_completed herr (by simp [hkey, hpad.not_gt, hdin.not_gt]), ← hkey, ← flagsCompleted_flagsAccepted herr]
    rfl

end Sys2Proof.Machine
end

section
/-!
PROOFS of the sequencer family (43_sequencer.md, rules R105 to R107): FILE_ENC, FILE_DEC and the file round trip.
-/

namespace Sys2Proof.Machine

/-! The two loops, run from CHUNK = 0 on a body of whole chunks. -/

/-- A slice inside the first `n` bytes of a string. -/
theorem slice_take (a : List Byte) {n k m : Nat} (h : k + m ≤ n) : slice (a.take n) k m = slice a k m := by
  rw [slice, slice, List.drop_take, List.take_take, Nat.min_eq_left (by omega)]

theorem getD_take (a : List Byte) {n k : Nat} (h : k < n) : (a.take n).getD k 0 = a.getD k 0 := by
  rw [List.getD_eq_getElem?_getD, List.getElem?_take_of_lt h, List.getD_eq_getElem?_getD]

/-- The loop of FILE_ENC: its chunks are the body it appends (rule R105). -/
theorem encryptChunks_eq_encryptedBody {n : Nat} {s : State} (hchunk : s.chunk = 0) (hpad : s.padNat ≤ 7)
    (hn : n = 0 → s.padNat = 0) (hdin : 8 * n ≤ s.din.length + s.padNat) :
    ∃ w, encryptChunks n s =
      { s with
        work := w
        din := s.din.drop (8 * n - s.padNat)
        dout := s.dout ++ encryptedBody s.kmat (s.din.take (8 * n - s.padNat) ++ s.rndHead s.padNat)
        chunk := BitVec.ofNat 64 n
        rndDrawn := s.rndDrawn + s.padNat } := by
  have hlen : (s.din.take (8 * n - s.padNat) ++ s.rndHead s.padNat).length / 8 = n := by
    simp only [List.length_append, List.length_take, rndHead_length]
    omega
  have h := encryptChunks_eq n s hpad hn hdin
  simp only [hchunk, zero_add] at h
  rw [encryptedBody, hlen]
  exact ⟨_, h⟩

/-- The loop of FILE_DEC: its chunks are the body it takes, of which the last `PADCOUNT` bytes are dropped (rule R106). -/
theorem decryptChunks_eq_decryptedBody {n : Nat} {s : State} (hchunk : s.chunk = 0) (hpad : s.padNat ≤ 7)
    (hdin : 8 * n ≤ s.din.length) :
    ∃ w, decryptChunks n s =
      { s with
        work := w
        din := s.din.drop (8 * n)
        dout := s.dout ++ (decryptedBody s.kmat (s.din.take (8 * n))).take (8 * n - s.padNat)
        chunk := BitVec.ofNat 64 n } := by
  have hlen : (s.din.take (8 * n)).length / 8 = n := by
    rw [List.length_take]
    omega
  have hbody : decryptedBody s.kmat (s.din.take (8 * n)) =
      (List.range n).flatMap fun k => chunkDec s.kmat (BitVec.ofNat 64 k) (slice s.din (8 * k) 8) := by
    rw [decryptedBody, hlen]
    refine List.flatMap_congr fun k hk => ?_
    rw [slice_take s.din (by have := List.mem_range.mp hk; omega)]
  have h := decryptChunks_eq n s hpad hdin
  simp only [hchunk, zero_add] at h
  rw [hbody]
  exact ⟨_, h⟩

/-! FILE_ENC (rule R105). -/

/-- FILE_ENC's chunks hold the plaintext and its filler, 8 bytes each. -/
theorem eight_mul_fileChunks (L : Nat) : 8 * ((L + padCount L) / 8) = L + padCount L := by
  rw [Nat.mul_comm, padCount_add]

/-- PADCOUNT holds FILE_ENC's pad-count. -/
theorem toNat_padCount (L : Nat) : (BitVec.ofNat 8 (padCount L)).toNat = padCount L := by
  have hle := padCount_le L
  exact Nat.mod_eq_of_lt (by omega)

theorem randomBytes_length (d n : Nat) : (randomBytes d n).length = n := by simp [randomBytes]

/-- Everything steps 1 to 3 of FILE_ENC do, besides what they leave in the working state. -/
theorem fileEncStart_eq (s : State) :
    ∃ w, fileEncStart s =
      { s with
        work := w
        din := s.din.drop s.pwlenNat
        dout := s.dout ++ header (BitVec.ofNat 8 (padCount s.lenNat)) (fileOfBytes 128 (randomBytes s.rndDrawn 128)).toList
        padcount := BitVec.ofNat 8 (padCount s.lenNat)
        salt := fileOfBytes 128 (randomBytes s.rndDrawn 128)
        chunk := 0
        kmat := fileOfBytes 64 (derive (s.din.take s.pwlenNat) (BitVec.ofNat 8 (padCount s.lenNat))
          (fileOfBytes 128 (randomBytes s.rndDrawn 128)).toList)
        rndDrawn := s.rndDrawn + Config.saltBytes } :=
  ⟨(fileEncStart s).work, rfl⟩

/-- Everything FILE_ENC's body does when DIN holds the password and the plaintext, besides what it leaves in the working
state. -/
theorem fileEncBody_eq {s : State} (hdin : s.pwlenNat + s.lenNat ≤ s.din.length) :
    ∃ w, fileEncBody s =
      { s with
        work := w
        din := s.din.drop (s.pwlenNat + s.lenNat)
        dout := s.dout ++ header (BitVec.ofNat 8 (padCount s.lenNat)) (randomBytes s.rndDrawn 128) ++
          encryptedBody
            (fileOfBytes 64
              (derive (s.din.take s.pwlenNat) (BitVec.ofNat 8 (padCount s.lenNat)) (randomBytes s.rndDrawn 128)))
            ((s.din.drop s.pwlenNat).take s.lenNat ++ randomBytes (s.rndDrawn + 128) (padCount s.lenNat))
        padcount := BitVec.ofNat 8 (padCount s.lenNat)
        salt := fileOfBytes 128 (randomBytes s.rndDrawn 128)
        chunk := BitVec.ofNat 64 ((s.lenNat + padCount s.lenNat) / 8)
        kmat := Vector.replicate 64 0
        rndDrawn := s.rndDrawn + 128 + padCount s.lenNat
        status := { s.status with kvalid := false } } := by
  obtain ⟨w₀, hstart⟩ := fileEncStart_eq s
  rw [fileOfBytes_toList 128 _ (randomBytes_length _ _), Config.saltBytes] at hstart
  have hpad := fileEncStart_padNat s
  have hle := padCount_le s.lenNat
  have hn := eight_mul_fileChunks s.lenNat
  have hrest : (fileEncStart s).din = s.din.drop s.pwlenNat := rfl
  have hlen : (fileEncStart s).din.length = s.din.length - s.pwlenNat := List.length_drop
  obtain ⟨w, hloop⟩ := encryptChunks_eq_encryptedBody (n := (s.lenNat + padCount s.lenNat) / 8) (s := fileEncStart s) rfl
    (by omega) (by omega) (by omega)
  rw [hpad, hn, Nat.add_sub_cancel, hrest, List.drop_drop, hstart] at hloop
  refine ⟨w, ?_⟩
  rw [fileEncBody, hstart, hloop]
  rfl

/-- Settles O51: one check, and the body (`fileEncBody_eq`), its header and its key those of `fileEncStart`. -/
theorem fileEncProducesTheFile : Obligations.FileEncProducesTheFile := by
  intro s herr
  refine ⟨fun hshort => exec_raised herr (by simp [hshort]), ?_⟩
  rintro hdin _ _ _ _ _ rfl rfl rfl rfl rfl
  obtain ⟨w, hbody⟩ := fileEncBody_eq (s := accept s) hdin
  rw [exec_completed herr (by simp [hdin.not_gt]), bodyOf, hbody, ← flagsCompleted_of_kvalid herr]
  rfl

/-! FILE_DEC (rule R106). -/

/-- Everything steps 1 and 2 of FILE_DEC do, besides what they leave in the working state. -/
theorem fileDecStart_eq (s : State) :
    ∃ w, fileDecStart s =
      { s with
        work := w
        din := (s.din.drop s.pwlenNat).drop 133
        padcount := (s.din.drop s.pwlenNat).getD 4 0
        salt := fileOfBytes 128 (slice (s.din.drop s.pwlenNat) 5 128)
        chunk := 0
        kmat := fileOfBytes 64 (derive (s.din.take s.pwlenNat) ((s.din.drop s.pwlenNat).getD 4 0)
          (fileOfBytes 128 (slice (s.din.drop s.pwlenNat) 5 128)).toList) } :=
  ⟨(fileDecStart s).work, rfl⟩

/-- Everything FILE_DEC's body does on a file that no check fails for, besides what it leaves in the working state. -/
theorem fileDecBody_eq {s : State} {file : List Byte} (hfile : file = (s.din.drop s.pwlenNat).take s.lenNat)
    (hflen : file.length = s.lenNat) (hlen : 133 ≤ file.length) (hmod : (file.length - 133) % 8 = 0)
    (hpc : (file.getD 4 0).toNat ≤ 7) :
    ∃ w, fileDecBody s =
      { s with
        work := w
        din := s.din.drop (s.pwlenNat + s.lenNat)
        dout := s.dout ++
          (decryptedBody (fileOfBytes 64 (derive (s.din.take s.pwlenNat) (file.getD 4 0) (slice file 5 128)))
            (file.drop 133)).take (file.length - 133 - (file.getD 4 0).toNat)
        padcount := file.getD 4 0
        salt := fileOfBytes 128 (slice file 5 128)
        chunk := BitVec.ofNat 64 ((file.length - 133) / 8)
        kmat := Vector.replicate 64 0
        status := { s.status with kvalid := false } } := by
  have hbyte : (s.din.drop s.pwlenNat).getD 4 0 = file.getD 4 0 := by rw [hfile, getD_take _ (by omega)]
  have hsalt : slice (s.din.drop s.pwlenNat) 5 128 = slice file 5 128 := by rw [hfile, slice_take _ (by omega)]
  have hbody : ((s.din.drop s.pwlenNat).drop 133).take (file.length - 133) = file.drop 133 := by
    rw [hflen, hfile, List.drop_take]
  have hrest : ((s.din.drop s.pwlenNat).drop 133).drop (file.length - 133) = s.din.drop (s.pwlenNat + file.length) := by
    rw [List.drop_drop, List.drop_drop, show s.pwlenNat + (133 + (file.length - 133)) = s.pwlenNat + file.length by omega]
  have hroom : file.length - 133 ≤ ((s.din.drop s.pwlenNat).drop 133).length := by
    rw [← List.length_drop, ← hbody]
    exact List.length_take_le' ..
  obtain ⟨w₀, hstart⟩ := fileDecStart_eq s
  rw [hbyte, hsalt, fileOfBytes_toList 128 _ (by rw [slice_length]; omega)] at hstart
  have hpad : (fileDecStart s).padNat = (file.getD 4 0).toNat := congrArg BitVec.toNat hbyte
  have hdin : (fileDecStart s).din = (s.din.drop s.pwlenNat).drop 133 := rfl
  have hn : 8 * ((file.length - 133) / 8) = file.length - 133 := by omega
  obtain ⟨w, hloop⟩ := decryptChunks_eq_decryptedBody (n := (file.length - 133) / 8) (s := fileDecStart s) rfl
    (hpad ▸ hpc) (by rw [hn, hdin]; exact hroom)
  rw [hn, hpad, hdin, hbody, hrest, hstart] at hloop
  refine ⟨w, ?_⟩
  rw [fileDecBody, Config.headerBytes, ← hflen, hstart, hloop]
  rfl

theorem file_length {s : State} {file : List Byte} (hdin : s.pwlen.toNat + s.len.toNat ≤ s.din.length)
    (hfile : file = (s.din.drop s.pwlen.toNat).take s.len.toNat) : file.length = s.len.toNat := by
  rw [hfile, List.length_take, List.length_drop]
  omega

/-- FILE_DEC's checks behind the first, read off the file (rule R106). -/
theorem firstFailure_fileDec_of_file {s : State} {file : List Byte} (hdin : s.pwlen.toNat + s.len.toNat ≤ s.din.length)
    (hfile : file = (s.din.drop s.pwlen.toNat).take s.len.toNat) :
    firstFailure .fileDec s =
      if file.length < 4 ∨ file.take 4 ≠ Config.magic.toList then some 0x01
      else if file.length < 133 ∨ (file.length - 133) % 8 ≠ 0 then some 0x04
      else if 7 < (file.getD 4 0).toNat then some 0x05 else none := by
  have hflen := file_length hdin hfile
  rw [firstFailure_fileDec, if_neg hdin.not_gt, ← hflen]
  by_cases hfour : file.length < 4
  · rw [if_pos (.inl hfour), if_pos (.inl hfour)]
  · have hmagic : file.take 4 = (s.din.drop s.pwlen.toNat).take 4 := by
      rw [hfile, List.take_take, Nat.min_eq_left (by omega)]
    rw [hmagic]
    by_cases hshort : file.length < 133
    · simp only [hshort, true_or, if_true]
    · have hbyte : file.getD 4 0 = s.din.getD (s.pwlen.toNat + 4) 0 := by
        rw [hfile, getD_take _ (by omega), List.getD_eq_getElem?_getD, List.getElem?_drop, List.getD_eq_getElem?_getD]
      rw [hbyte]

/-- Settles O52: the checks are `firstFailure_fileDec_of_file`'s, and the body is `fileDecBody_eq`. -/
theorem fileDecRecoversTheContent : Obligations.FileDecRecoversTheContent := by
  intro s herr
  refine ⟨fun hshort => exec_raised herr (by simp [hshort]), ?_⟩
  rintro hdin _ file _ _ _ rfl hfile rfl rfl rfl
  have hchecks := firstFailure_fileDec_of_file hdin hfile
  have hmarker (hfour : 4 ≤ file.length) (hmagic : file.take 4 = Config.magic.toList) :
      ¬(file.length < 4 ∨ file.take 4 ≠ Config.magic.toList) := not_or.mpr ⟨hfour.not_gt, not_not.mpr hmagic⟩
  have hwhole (hlen : 133 ≤ file.length) (hmod : (file.length - 133) % 8 = 0) :
      ¬(file.length < 133 ∨ (file.length - 133) % 8 ≠ 0) := not_or.mpr ⟨hlen.not_gt, not_not.mpr hmod⟩
  refine ⟨fun hbad => ?_, fun hfour hmagic hbad => ?_, fun hmagic hlen hmod hbad => ?_, fun hmagic hlen hmod hle => ?_⟩
  · exact exec_raised herr (by rw [hchecks, if_pos hbad])
  · exact exec_raised herr (by rw [hchecks, if_neg (hmarker hfour hmagic), if_pos hbad])
  · exact exec_raised herr
      (by rw [hchecks, if_neg (hmarker (by omega) hmagic), if_neg (hwhole hlen hmod), if_pos hbad])
  · obtain ⟨w, hbody⟩ := fileDecBody_eq (s := accept s) hfile (file_length hdin hfile) hlen hmod hle
    rw [exec_completed herr
        (by rw [hchecks, if_neg (hmarker (by omega) hmagic), if_neg (hwhole hlen hmod), if_neg hle.not_gt]),
      bodyOf, hbody, ← flagsCompleted_of_kvalid herr]
    rfl

/-! The round trip (rule R107). -/

/-- Piece `k` of `n` pieces of 8 bytes. -/
theorem slice_flatMap_range {n k : Nat} {f : Nat → List Byte} (hf : ∀ i, (f i).length = 8) (hk : k < n) :
    slice ((List.range n).flatMap f) (8 * k) 8 = f k := by
  induction k generalizing n f with
  | zero =>
    obtain ⟨n, rfl⟩ := Nat.exists_eq_succ_of_ne_zero hk.ne'
    rw [flatMap_range_succ, slice, Nat.mul_zero, List.drop_zero, List.take_left' (hf 0)]
  | succ k ih =>
    obtain ⟨n, rfl⟩ := Nat.exists_eq_succ_of_ne_zero (Nat.ne_zero_of_lt hk)
    rw [flatMap_range_succ, Nat.mul_succ, Nat.add_comm, ← slice_drop, List.drop_left' (hf 0)]
    exact ih (fun i => hf (i + 1)) (Nat.lt_of_succ_lt_succ hk)

/-- The first `n` pieces of 8 bytes of a string are its beginning. -/
theorem flatMap_range_slice (a : List Byte) (n : Nat) :
    (List.range n).flatMap (fun k => slice a (8 * k) 8) = a.take (8 * n) := by
  induction n with
  | zero => rfl
  | succ n ih => rw [List.range_succ, List.flatMap_append, ih, List.flatMap_singleton, slice, Nat.mul_succ, List.take_add]

theorem encryptedBody_length (kmat : Vector Byte 64) (a : List Byte) :
    (encryptedBody kmat a).length = 8 * (a.length / 8) := by
  simp [encryptedBody, List.length_flatMap, Nat.mul_comm]

/-- Decryption gives back every whole chunk of an encrypted body. -/
theorem decryptedBody_encryptedBody (kmat : Vector Byte 64) {a : List Byte} (ha : a.length % 8 = 0) :
    decryptedBody kmat (encryptedBody kmat a) = a := by
  rw [decryptedBody, encryptedBody_length, Nat.mul_div_cancel_left _ (by decide)]
  calc (List.range (a.length / 8)).flatMap
        (fun k => chunkDec kmat (BitVec.ofNat 64 k) (slice (encryptedBody kmat a) (8 * k) 8))
      = (List.range (a.length / 8)).flatMap fun k => slice a (8 * k) 8 := by
        refine List.flatMap_congr fun k hk => ?_
        have hk := List.mem_range.mp hk
        rw [encryptedBody, slice_flatMap_range (fun _ => chunkEnc_length ..) hk]
        exact chunkDecryptionInvertsEncryption kmat _ _ (by rw [slice_length]; omega)
    _ = a := by rw [flatMap_range_slice, List.take_of_length_le (by omega)]

/-! The parts of a file, a header and a body (rule R43). -/

theorem take_four_header (pc : Byte) (salt body : List Byte) : (header pc salt ++ body).take 4 = Config.magic.toList := by
  simp [header]

theorem getD_four_header (pc : Byte) (salt body : List Byte) : (header pc salt ++ body).getD 4 0 = pc := by
  simp [header]

theorem slice_five_header (pc : Byte) {salt : List Byte} (hsalt : salt.length = 128) (body : List Byte) :
    slice (header pc salt ++ body) 5 128 = salt := by
  rw [slice, header, List.append_assoc, List.drop_left' (by simp), List.take_left' hsalt]

theorem drop_header (pc : Byte) {salt : List Byte} (hsalt : salt.length = 128) (body : List Byte) :
    (header pc salt ++ body).drop 133 = body :=
  List.drop_left' (by simp [header, hsalt])

/-- A password and the string behind it, found again in DIN by their lengths. -/
theorem parts_of_append {din pw a : List Byte} {n m : Nat} (hdin : din = pw ++ a) (hn : n = pw.length) (hm : m = a.length) :
    pw = din.take n ∧ a = (din.drop n).take m ∧ n + m ≤ din.length := by
  subst hdin hn hm
  simp

/-- FILE_DEC on a password and a file made with it appends the encrypted data but for its last `pc` bytes. -/
theorem exec_fileDec_of_file {t : State} {pw salt data : List Byte} {pc : Byte} {kmat : Vector Byte 64}
    (herr : t.status.err = false) (hpwlen : t.pwlen.toNat = pw.length)
    (hlen : t.len.toNat = (header pc salt ++ encryptedBody kmat data).length)
    (hdin : t.din = pw ++ (header pc salt ++ encryptedBody kmat data)) (hpc : pc.toNat ≤ 7) (hsalt : salt.length = 128)
    (hkmat : kmat = fileOfBytes 64 (hash (pw ++ [pc] ++ salt))) (hdata : data.length % 8 = 0) :
    ∃ t', exec .fileDec t = .next t' ∧ t'.status.err = false ∧ t'.status.done = true ∧
      t'.dout = t.dout ++ data.take (data.length - pc.toNat) := by
  obtain ⟨hpw, hfile, henough⟩ := parts_of_append hdin hpwlen hlen
  have hflen : (header pc salt ++ encryptedBody kmat data).length = 133 + data.length := by
    rw [List.length_append, encryptedBody_length, Nat.mul_div_cancel' (Nat.dvd_of_mod_eq_zero hdata)]
    simp [header, hsalt]
  obtain ⟨-, hdec⟩ := fileDecRecoversTheContent t herr
  obtain ⟨-, -, -, hdone⟩ := hdec henough pw _ salt pc kmat hpw hfile (getD_four_header pc salt _).symm
    (slice_five_header pc hsalt _).symm hkmat
  refine ⟨_, hdone (take_four_header pc salt _) (by omega) (by omega) hpc, rfl, rfl, ?_⟩
  rw [drop_header pc hsalt, decryptedBody_encryptedBody kmat hdata, hflen, Nat.add_sub_cancel_left]

/-- Settles O54: FILE_ENC's file holds the pad-count and the salt that its key was derived from, so FILE_DEC derives the same
key (`exec_fileDec_of_file`), and what it drops is the filler. -/
theorem fileRoundTrip : Obligations.FileRoundTrip := by
  intro pw d s herr _ _ hpwlen hlen hdin
  obtain ⟨hpw, hd, henough⟩ := parts_of_append hdin hpwlen hlen
  have hpc := toNat_padCount s.len.toNat
  have hdata : (d ++ randomBytes (s.rndDrawn + 128) (padCount s.len.toNat)).length = d.length + padCount d.length := by
    rw [List.length_append, randomBytes_length, hlen]
  obtain ⟨-, henc⟩ := fileEncProducesTheFile s herr
  have hs' := henc henough pw d _ _ _ hpw hd rfl rfl rfl
  refine ⟨_, _, hs', List.append_assoc .., fun t hterr htpwlen htlen htdin => ?_⟩
  obtain ⟨t', ht', herr', hdone', hdout'⟩ := exec_fileDec_of_file hterr htpwlen htlen htdin (hpc.trans_le (padCount_le _))
    (randomBytes_length _ _) rfl (by rw [hdata, ← eight_mul_fileChunks, Nat.mul_mod_right])
  refine ⟨t', ht', herr', hdone', ?_⟩
  rw [hdout', hpc, hdata, hlen, Nat.add_sub_cancel, List.take_left' rfl]

end Sys2Proof.Machine
end

section
/-!
PROOFS of the sequencer family (43_sequencer.md, the end of rule R105; program P3 of 95_test_vectors.md): FILE_ENC does
what the step commands do one after another.
-/

namespace Sys2Proof.Machine

/-- `s` as a step command leaves it that completes with KVALID = 1. -/
def keyed (s : State) : State := { s with work := Work.zero, status := doneStatus true }

theorem execAll_cons {i : Instr} {s t : State} (h : exec i s = .next t) (rest : List Instr) :
    execAll (i :: rest) s = execAll rest t := by
  rw [execAll, h]

theorem execAll_cons_completed {i : Instr} {s : State} (herr : s.status.err = false) (hf : firstFailure i s = none)
    (rest : List Instr) : execAll (i :: rest) s = execAll rest (complete (bodyOf i (accept s))) :=
  execAll_cons (exec_completed herr hf) rest

/-- Steps 1 to 3 of FILE_ENC by step commands. -/
theorem execAll_start {s : State} (herr : s.status.err = false) (hdin : s.pwlen.toNat ≤ s.din.length)
    (rest : List Instr) :
    execAll (.saltGen :: .kdf :: .hdrPut :: rest) { s with padcount := BitVec.ofNat 8 (padCount s.len.toNat) } =
      execAll rest (keyed (fileEncStart (accept s))) := by
  have hpad : ¬7 < (BitVec.ofNat 8 (padCount s.len.toNat)).toNat :=
    ((toNat_padCount _).trans_le (padCount_le _)).not_gt
  rw [execAll_cons_completed (i := .saltGen), execAll_cons_completed (i := .kdf), execAll_cons_completed (i := .hdrPut),
    keyed, ← flagsCompleted_of_kvalid herr]
  · rfl
  · exact herr
  · rw [firstFailure_hdrPut]
    exact if_neg hpad
  · exact herr
  · rw [firstFailure_kdf]
    exact (if_neg hpad).trans (if_neg hdin.not_gt)
  · exact herr
  · rfl

/-! Step 4: CHUNK_ENC for every full chunk, and CHUNK_ENC_LAST for a padded one. -/

theorem exec_chunkEnc_keyed {s : State} (hdin : 8 ≤ s.din.length) :
    exec .chunkEnc (keyed s) = .next (keyed (encryptFullChunk s)) := by
  obtain ⟨-, -, hdone⟩ := chunkEncCommandEncrypts (keyed s) rfl
  exact hdone rfl hdin

theorem exec_chunkEncLast_keyed {s : State} (hpad : s.padNat ≤ 7) (hdin : 8 ≤ s.din.length + s.padNat) :
    exec .chunkEncLast (keyed s) = .next (keyed (encryptLastChunk s)) := by
  obtain ⟨-, -, -, hdone⟩ := chunkEncLastPadsAndEncrypts (keyed s) rfl
  exact hdone rfl hpad (Nat.sub_le_of_le_add hdin)

theorem encryptChunks_one_full {s : State} (h : s.padNat = 0) : encryptChunks 1 s = encryptFullChunk s :=
  if_neg (not_not.mpr h)

theorem encryptChunks_one_padded {s : State} (h : s.padNat ≠ 0) : encryptChunks 1 s = encryptLastChunk s := if_pos h

/-- The loop of FILE_ENC begins with a full chunk, unless its only chunk is a padded one. -/
theorem encryptChunks_succ {n : Nat} {s : State} (h : n = 0 → s.padNat = 0) :
    encryptChunks (n + 1) s = encryptChunks n (encryptFullChunk s) := by
  cases n with
  | zero => exact encryptChunks_one_full (h rfl)
  | succ n => rfl

/-- The command for the padded chunk, of which there is one unless the pad-count is 0. -/
def lastCommands (pad : Nat) : List Instr := if pad = 0 then [] else [.chunkEncLast]

@[simp] theorem lastCommands_zero : lastCommands 0 = [] := rfl

theorem lastCommands_of_ne_zero {pad : Nat} (h : pad ≠ 0) : lastCommands pad = [.chunkEncLast] := if_neg h

theorem eq_zero_of_lastCommands_length {pad : Nat} (h : (lastCommands pad).length = 0) : pad = 0 := by
  by_contra hne
  rw [lastCommands_of_ne_zero hne] at h
  exact absurd h (by decide)

/-- By induction on the full chunks: each is one turn of FILE_ENC's loop, and so is the padded one behind them. -/
theorem execAll_chunks (m : Nat) {s : State} (hpad : s.padNat ≤ 7)
    (hdin : 8 * (m + (lastCommands s.padNat).length) ≤ s.din.length + s.padNat) :
    execAll (List.replicate m .chunkEnc ++ lastCommands s.padNat) (keyed s) =
      .next (keyed (encryptChunks (m + (lastCommands s.padNat).length) s)) := by
  induction m generalizing s with
  | zero =>
    by_cases hzero : s.padNat = 0
    · rw [hzero, lastCommands_zero]
      rfl
    · rw [lastCommands_of_ne_zero hzero] at hdin ⊢
      exact (execAll_cons (exec_chunkEncLast_keyed hpad hdin) []).trans
        (encryptChunks_one_padded hzero ▸ rfl)
  | succ m ih =>
    have hlast := eq_zero_of_lastCommands_length (pad := s.padNat)
    have hpad' : (encryptFullChunk s).padNat = s.padNat := rfl
    have hlen : (encryptFullChunk s).din.length = s.din.length - 8 := List.length_drop
    have hrest := ih (s := encryptFullChunk s) (by omega) (by rw [hpad', hlen]; omega)
    rw [List.replicate_succ, List.cons_append, execAll_cons (exec_chunkEnc_keyed (by omega)), Nat.succ_add m,
      encryptChunks_succ (by omega)]
    exact hrest

/-- The pad-count is 0 exactly when there is no remainder. -/
theorem lastCommands_padCount (L : Nat) : lastCommands (padCount L) = if L % 8 = 0 then [] else [.chunkEncLast] := by
  have hzero : padCount L = 0 ↔ L % 8 = 0 := by
    rw [padCount]
    omega
  simp only [lastCommands, hzero]

/-- FILE_ENC's chunks are the full ones and the padded one. -/
theorem fileChunks_eq (L : Nat) : (L + padCount L) / 8 = L / 8 + (lastCommands (padCount L)).length := by
  rw [lastCommands_padCount, padCount]
  split
  · rw [List.length_nil]
    omega
  · rw [List.length_singleton]
    omega

/-! The end of FILE_ENC. -/

theorem encryptChunks_status (n : Nat) (s : State) : (encryptChunks n s).status = s.status := by
  obtain ⟨_, _, _, _, _, h⟩ := encryptChunks_frame n s
  rw [h]

/-- FILE_ENC ends as a step command does, but for the key. -/
theorem complete_endFile {s : State} (herr : s.status.err = false) :
    complete (endFile s) = { keyed s with kmat := Vector.replicate 64 0, status := doneStatus false } := by
  rw [← flagsCompleted_of_kvalid herr]
  rfl

/-- Settles O53: both ways the start is `fileEncStart` (`execAll_start`) and the chunks are `encryptChunks`
(`execAll_chunks`); FILE_ENC's end then clears the key (`complete_endFile`). -/
theorem fileEncEqualsTheStepCommands : Obligations.FileEncEqualsTheStepCommands := by
  intro s herr hdin
  have hpad : (fileEncStart (accept s)).padNat = padCount s.len.toNat := fileEncStart_padNat (accept s)
  have hlen : (fileEncStart (accept s)).din.length = s.din.length - s.pwlen.toNat := List.length_drop
  have hn := eight_mul_fileChunks s.len.toNat
  have hchunks := execAll_chunks (s.len.toNat / 8) (s := fileEncStart (accept s)) (hpad.trans_le (padCount_le _))
    (by rw [hpad, ← fileChunks_eq]; omega)
  rw [hpad, ← fileChunks_eq, lastCommands_padCount] at hchunks
  refine ⟨_, (execAll_start herr (by omega) _).trans hchunks, ?_⟩
  rw [exec_completed herr ((firstFailure_fileEnc s).trans (if_neg hdin.not_gt)), bodyOf, fileEncBody, complete_endFile]
  · rfl
  · rw [encryptChunks_status]
    exact herr

end Sys2Proof.Machine
end

section
/-!
PROOFS of the system family (44_system.md, rules R109 and R110): what NOP and SOFT_RESET do.
-/

namespace Sys2Proof.Machine

/-- Between transactions BUSY and the working state are where completion leaves them, so accepting and completing a
command with an empty body sets DONE alone. -/
theorem complete_accept_of_idle {s : State} (hs : s.Idle) :
    complete (accept s) = { s with status := { s.status with done := true } } := by
  obtain ⟨hbusy, hwork⟩ := hs
  calc complete (accept s)
      = { s with work := Work.zero, status := { s.status with done := true, busy := false } } := rfl
    _ = { s with status := { s.status with done := true } } := by rw [← hwork, ← hbusy]

/-- In the error state every command but SOFT_RESET is ignored (rule R63). -/
theorem exec_ignored {i : Instr} {s : State} (hi : i ≠ .softReset) (herr : s.status.err = true) :
    exec i s = .next s := by
  rw [exec_eq_issue i s hi, issue_ignored herr]

/-- Settles O17: NOP has no checks and an empty body, so with ERR = 0 it is accepted and completed
(`complete_accept_of_idle`), and with ERR = 1 it is ignored (`exec_ignored`). -/
theorem nopSetsDoneOnly : Obligations.NopSetsDoneOnly := by
  refine fun s hidle => ⟨fun herr => ?_, exec_ignored (by decide)⟩
  calc exec .nop s
      = .next (complete (accept s)) := exec_completed herr rfl
    _ = .next { s with status := { s.status with done := true } } := congrArg _ (complete_accept_of_idle hidle)

/-- Leaving the error state and completing gives the reset state with DONE = 1, but for IEN, the draw counter and the
host's own lists. -/
theorem complete_leaveErrorState (s : State) :
    complete (leaveErrorState s) =
      { State.reset with
        ien := s.ien
        status := { State.reset.status with done := true }
        rndDrawn := s.rndDrawn, pending := s.pending, replies := s.replies } := rfl

/-- Settles O18: acceptance touches only STATUS, of which `complete_leaveErrorState` keeps nothing. -/
theorem softResetRestoresAllButIen : Obligations.SoftResetRestoresAllButIen := fun s =>
  (exec_softReset s).trans (congrArg _ (complete_leaveErrorState (accept s)))

end Sys2Proof.Machine
end

section
/-!
PROOFS of the exceptions family (60_exceptions.md, rules R112, R113, R117, R119): the first failing check of a command.
-/

namespace Sys2Proof.Machine

/-- Settles O20: the table's first failing row is the first failing check of the command's meaning (`firstFailure_eq`,
which `exec_raised` cites; SOFT_RESET has no row), and raising its error on the accepted state leaves `errorState`. -/
theorem firstFailingCheckIsReported : Obligations.FirstFailingCheckIsReported :=
  fun _ _ _ herr hfail => exec_raised herr hfail

end Sys2Proof.Machine
end

section
/-!
PROOFS of the reset family (70_reset_and_hazards.md, rule R125): the values hardware reset leaves, as an event from any
state, and the invariant at the start.
-/

namespace Sys2Proof.Machine

/-- A word of an all-zero byte file is zero, inside the file and past its end. -/
theorem fileWord_replicate_zero (n j : Nat) : fileWord (Vector.replicate n 0) j = 0 := by
  have hbyte : ∀ k, (Vector.replicate n (0 : Byte)).toList.getD k 0 = 0 := fun k => by
    rw [Vector.toList_replicate, List.getD_eq_getElem?_getD, List.getElem?_getD_replicate_default_eq]
  simp only [fileWord, le32At, hbyte]
  rfl

/-- The window after reset (rules R17, R125): the word buffers entry by entry, every other register as it is stored. -/
theorem regRead_reset (r : Reg) : regRead r State.reset = if r = .id then 0x4A430001 else 0 := by
  cases r with
  | digest i => exact Vector.getElem_replicate i.isLt
  | salt j => exact fileWord_replicate_zero 128 j.val
  | _ => rfl

/-- Settles O15: the window by `regRead_reset`; every hidden table is one value repeated. -/
theorem resetLeavesTheSpecsValues : Obligations.ResetLeavesTheSpecsValues :=
  ⟨regRead_reset, fun k => Vector.getElem_replicate k.isLt, fun k => Vector.getElem_replicate k.isLt,
    fun i => Vector.getElem_replicate i.isLt, fun i => Vector.getElem_replicate i.isLt, rfl, rfl, rfl, rfl, rfl,
    fun q => Vector.getElem_replicate q.isLt, rfl, rfl, rfl⟩

/-- Settles O16: the reset is the host's next transaction (`step_of_pending`), and `hardReset` keeps of the state only
what is not the engine's. -/
theorem hardwareResetRestoresResetState : Obligations.HardwareResetRestoresResetState := fun s rest h =>
  calc step s
      = perform .hardReset { s with pending := rest } := step_of_pending h
    _ = .next (hardReset { s with pending := rest }) := rfl
    _ = .next { State.reset with rndDrawn := s.rndDrawn, pending := rest, replies := s.replies } := rfl

/-- The reset state is hardware reset's result on itself: it holds no draws, transactions or replies to keep. -/
theorem hardReset_reset : hardReset State.reset = State.reset := rfl

/-- Settles O56: hardware reset meets the invariant from any state (`hardReset_inv`), so from the reset state, where it
changes nothing. -/
theorem resetMeetsTheInvariant : Obligations.ResetMeetsTheInvariant :=
  hardReset_reset.subst (motive := State.Inv) (hardReset_inv State.reset)

end Sys2Proof.Machine
end
